-- ==== Sys2Proof/Word.lean ====
section
/-! DEFINITION. The word types of the spec (00_scope R9, R10): bytes, 32-bit host operands and cursors, 24-bit flash
addresses, 16-bit security-ID addresses. All quantities are unsigned. -/

namespace Sys2Proof

/-- A byte, the unit of every transfer (R66). -/
abbrev Byte := BitVec 8

/-- A host operand or a cursor register: `HOST_ADDR_BITS` = 32 bits (R7, R21). -/
abbrev Word := BitVec 32

/-- A FlashAddress: a 24-bit byte offset (R7, R13). -/
abbrev Addr24 := BitVec 24

/-- The 16-bit address of a read security-ID frame (R91, format `F2XR`). -/
abbrev Addr16 := BitVec 16

/-- `PAGE_SIZE`, fixed (R7). -/
abbrev pageSize : Nat := 256

/-- `ERASED_BYTE`, fixed (R7). -/
def erasedByte : Byte := 0xFF

end Sys2Proof
end

