-- ==== Sys2Proof/Config.lean ====
section
/-! DEFINITION. What is fixed for one machine and what the spec leaves open: the frame formats and the 21 commands
(30_encoding R91, R94), the implementation parameters (00_scope R7) as one record of plain data, the statuses and the
opaque constants that stand for free values. -/

namespace Sys2Proof

/-- The frame formats of R91. -/
inductive Format where
  | f0 | fr | fw | fa | far | faxr | faw | f2xr
  deriving DecidableEq, Repr

/-- The 21 chip commands of R94, in its order, as names only. -/
inductive Cmd where
  | nop | rsten | rst | rdsr | wrsr | rdcr | read | hsread | wren | wrdi | se | be | ce | pp
  | rdid | sfdp | rbpr | ulbpr | rsid | dpd | rdpd
  deriving DecidableEq, Repr

/-- The 21 opcode bytes, parameters `OP_*` (R7, R94). -/
structure Opcodes where
  nop    : Byte
  rsten  : Byte
  rst    : Byte
  rdsr   : Byte
  wrsr   : Byte
  rdcr   : Byte
  read   : Byte
  hsread : Byte
  wren   : Byte
  wrdi   : Byte
  se     : Byte
  be     : Byte
  ce     : Byte
  pp     : Byte
  rdid   : Byte
  sfdp   : Byte
  rbpr   : Byte
  ulbpr  : Byte
  rsid   : Byte
  dpd    : Byte
  rdpd   : Byte
  deriving DecidableEq, Repr

/-- A 3-byte identifier "vendor/device/capacity" (R41). -/
structure ChipId where
  vendor   : Byte
  device   : Byte
  capacity : Byte
  deriving DecidableEq, Repr

/-- The implementation parameters of R7 that are not held in the device's own registers. `PAGE_SIZE`, `ADDR_BITS`,
`ADDR_MASK`, `ERASED_BYTE` and `HOST_ADDR_BITS` are fixed and stand in Word.lean; `DEV_ID` and `SR_AUX` are the device's
`id` and `aux`. Timeouts are in milliseconds. -/
structure Params where
  sectorSize      : Nat
  deviceSize      : Nat
  tProgMs         : Nat
  tEraseMs        : Nat
  tInitMs         : Nat
  pollIntervalMs  : Nat
  verifyAfterWrite : Bool
  checkWelCleared  : Bool
  verifySlice     : Nat
  expectedId      : ChipId
  ops             : Opcodes
  wordSize        : Nat
  wordsPerBlock   : Nat
  totalBlocks     : Nat
  protAfterReset  : Bool
  deriving DecidableEq, Repr

/-- A transport's own error code, opaque to `SEQ` (R161, U17). -/
abbrev BusError := Nat

/-- The closed set of statuses (R250). -/
inductive Status where
  | ok
  | transportError (e : BusError)
  | protocolViolation
  | timeout
  | verificationFailure
  | alignmentError
  | stateError
  deriving DecidableEq, Repr, Inhabited

/-- The engine's two-valued success and error domain (R236). -/
inductive EngineCode where
  | success
  | error
  deriving DecidableEq, Repr

/-- What `DEV` consumed of a frame in which a transport call failed (U6): nothing, or the frame cut to its first `n`
bytes (the whole frame when `n` is its length or more); and whether what the frame was aimed at is left disturbed (log 15). -/
structure Loss where
  reached   : Option Nat
  disturbed : Bool
  deriving DecidableEq, Repr, Inhabited

/-! Free values (log 4). None has a body: nothing can be proved of the value. The first argument is the draw counter
of State, the second tells apart the values of one draw. -/

/-- Status bits 7:6 of one read-status frame (R35, U5). -/
opaque Config.freeStatusHi : Nat → BitVec 2

/-- Byte `i` returned by a read frame that the device ignores or does not take, or past the third identifier byte (U2,
U12, R131). -/
opaque Config.freeReadByte : Nat → Nat → Byte

/-- Byte `i` of an output buffer whose request failed (R26, U1). -/
opaque Config.freeBufferByte : Nat → Nat → Byte

/-- The array byte at an address whose content is unspecified (R46, U9; U6). -/
opaque Config.freeArrayByte : Nat → Nat → Byte

/-- `DEV.CR` where it is unspecified (R45, R46, U7; U6). -/
opaque Config.freeConfigReg : Nat → Byte

/-- WEL where it is unspecified (R139, U8; U6). -/
opaque Config.freeWel : Nat → Bool

/-- `DEV.PROT` after a disturbed unlock frame, as ranges of protected addresses (U6, log 15). -/
opaque Config.freeProtection : Nat → List (Nat × Nat)

/-- What the device consumed of a frame whose transport failed (U6). -/
opaque Config.freeLoss : Nat → Loss

/-- Context register `i` of the sequencer outside an operation (R21). -/
opaque Config.freeContext : Nat → Nat → Word

/-- `SEQ.T0` outside an operation (R21). -/
opaque Config.freeT0 : Nat → Nat

/-- `SEQ.ST` after a reset of `SEQ` (R47). -/
opaque Config.freeStatus : Nat → Status

/-! Constants of one implementation (log 10, log 11, log 12, log 16). -/

/-- Byte `i` of a read block-protection answer of `n` bytes while the addresses `p` are protected (R140, log 12): not a
draw, since repeating the command returns the same bytes (R68). -/
opaque Config.protByte (p : List (Nat × Nat)) (n i : Nat) : Byte

/-- Which byte of that answer is not zero (R140, log 12). -/
opaque Config.protIndex (p : List (Nat × Nat)) (n : Nat) : Nat

/-- The value of that byte, less one (R140, log 12): the byte is this value plus one. -/
opaque Config.protNonzero (p : List (Nat × Nat)) (n : Nat) : Fin 255

/-- Byte `i`, past the first, of a read-config answer while `DEV.CR` is `cr` (R125 gives the first only, log 16): not a
draw, since repeating the command returns the same bytes (R68). -/
opaque Config.pastConfigByte (cr : Byte) (i : Nat) : Byte

/-- `BLOCK_RANGE(a)`, the range of the block that holds an address (R136, U13). -/
opaque Config.blockRange : Nat → Nat × Nat

/-- The SFDP byte at an offset past the listed table (R43, R132, U13). -/
opaque Config.sfdpByte : Nat → Byte

/-- The security-ID byte at an offset past the listed bytes (R43, R133, U13). -/
opaque Config.sidByte : Nat → Byte

end Sys2Proof
end

