-- ==== Sys2Proof/Syntax.lean ====
section
/-! DEFINITION. The instructions: one constructor per row of spec/opcode_table.json. The first 21 are chip commands
(30_encoding R94), frames that the device consumes; `n` is the number of bytes received in the data phase and `x` a
dummy byte. The last 19 are the host's requests (R100), with their operands in the order of the call. -/

namespace Sys2Proof

inductive Instr where
  /-- R121 -/ | nop
  /-- R122 -/ | rsten
  /-- R123 -/ | rst
  /-- R124 -/ | rdsr (n : Nat)
  /-- R128 -/ | wrsr (status config : Byte)
  /-- R125 -/ | rdcr (n : Nat)
  /-- R129 -/ | read (a : Addr24) (n : Nat)
  /-- R130 -/ | hsread (a : Addr24) (x : Byte) (n : Nat)
  /-- R126 -/ | wren
  /-- R127 -/ | wrdi
  /-- R135 -/ | se (a : Addr24)
  /-- R136 -/ | be (a : Addr24)
  /-- R137 -/ | ce
  /-- R134 -/ | pp (a : Addr24) (d : List Byte)
  /-- R131 -/ | rdid (n : Nat)
  /-- R132 -/ | sfdp (a : Addr24) (x : Byte) (n : Nat)
  /-- R140 -/ | rbpr (n : Nat)
  /-- R141 -/ | ulbpr
  /-- R133 -/ | rsid (a : Addr16) (x : Byte) (n : Nat)
  /-- R142 -/ | dpd
  /-- R143 -/ | rdpd
  /-- R191 -/ | reqInitialize
  /-- R192 -/ | reqReset
  /-- R193 -/ | reqRead (addr size : Word)
  /-- R200 -/ | reqWrite (addr size : Word) (buf : List Byte)
  /-- R204 -/ | reqEraseSector (addr eraseCount : Word)
  /-- R205 -/ | reqVerifySectorErased (addr : Word)
  /-- R174 -/ | reqBusyPoll (timeoutMs : Word)
  /-- R176 -/ | reqCheckId
  /-- R166 -/ | reqReadStatus
  /-- R167 -/ | reqReadConfig
  /-- R168 -/ | reqWriteEnable
  /-- R169 -/ | reqWriteDisable
  /-- R178 -/ | reqWriteStatus (status config : Byte)
  /-- R177 -/ | reqUnlockAllBlocks
  /-- R231 -/ | reqBlockRead (blockAddr words : Word)
  /-- R232 -/ | reqBlockWrite (blockAddr words : Word) (src : List Byte)
  /-- R233 -/ | reqBlockErase (block eraseCount : Word)
  /-- R234 -/ | reqBlockEraseVerify (block : Word)
  /-- R235 -/ | reqSystemError (code : Word)
  deriving DecidableEq, Repr

end Sys2Proof
end

