-- ==== Sys2Proof/WellFormed.lean ====
section
/-! DEFINITION. The checks an instruction must pass to have an encoding: the data length of a page-program (30_encoding
R91, format `FAW`), and the buffers of the two writes, which hold at least the bytes their count says (R26, R232). -/

namespace Sys2Proof

/-- An instruction that a frame or a request can carry. -/
def Instr.wf (p : Params) : Instr → Bool
  | .pp _ d => decide (1 ≤ d.length) && decide (d.length ≤ pageSize)
  | .reqWrite _ size buf => decide (size.toNat ≤ buf.length)
  | .reqBlockWrite _ words src => decide (words.toNat * p.wordSize ≤ src.length)
  | .nop | .rsten | .rst | .rdsr _ | .wrsr _ _ | .rdcr _ | .read _ _ | .hsread _ _ _ | .wren | .wrdi | .se _
  | .be _ | .ce | .rdid _ | .sfdp _ _ _ | .rbpr _ | .ulbpr | .rsid _ _ _ | .dpd | .rdpd
  | .reqInitialize | .reqReset | .reqRead _ _ | .reqEraseSector _ _ | .reqVerifySectorErased _ | .reqBusyPoll _
  | .reqCheckId | .reqReadStatus | .reqReadConfig | .reqWriteEnable | .reqWriteDisable | .reqWriteStatus _ _
  | .reqUnlockAllBlocks | .reqBlockRead _ _ | .reqBlockErase _ _ | .reqBlockEraseVerify _ | .reqSystemError _ => true

end Sys2Proof
end

