-- ==== Sys2Proof/Decode.lean ====
section
/-! DEFINITION. Encodings (30_encoding): the opcode map, frame formats, address assembly, the decoder of frames and of
requests, which rejects by name, and after it the encoder. Byte 0 of a frame is sent first (R91). -/

namespace Sys2Proof

/-! ## The opcode map (R94) -/

/-- Every chip command once. -/
def Cmd.all : List Cmd :=
  [.nop, .rsten, .rst, .rdsr, .wrsr, .rdcr, .read, .hsread, .wren, .wrdi, .se, .be, .ce, .pp,
   .rdid, .sfdp, .rbpr, .ulbpr, .rsid, .dpd, .rdpd]

/-- `OP_<mnemonic>` of a command (R94). -/
def Opcodes.byte (o : Opcodes) : Cmd → Byte
  | .nop => o.nop | .rsten => o.rsten | .rst => o.rst | .rdsr => o.rdsr | .wrsr => o.wrsr | .rdcr => o.rdcr
  | .read => o.read | .hsread => o.hsread | .wren => o.wren | .wrdi => o.wrdi | .se => o.se | .be => o.be
  | .ce => o.ce | .pp => o.pp | .rdid => o.rdid | .sfdp => o.sfdp | .rbpr => o.rbpr | .ulbpr => o.ulbpr
  | .rsid => o.rsid | .dpd => o.dpd | .rdpd => o.rdpd

/-- The only thing a model may assume of the opcodes: they are pairwise distinct (R94). -/
def Opcodes.distinct (o : Opcodes) : Bool := decide (Cmd.all.map o.byte).Nodup

/-- The command an opcode byte selects (R90, R93). -/
def Opcodes.cmdOf (o : Opcodes) (b : Byte) : Option Cmd := Cmd.all.find? (fun c => decide (o.byte c = b))

/-- The frame format of each command (R91, R94). -/
def Cmd.format : Cmd → Format
  | .nop | .rsten | .rst | .wren | .wrdi | .ce | .ulbpr | .dpd | .rdpd => .f0
  | .rdsr | .rdcr | .rdid | .rbpr => .fr
  | .wrsr => .fw
  | .se | .be => .fa
  | .read => .far
  | .hsread | .sfdp => .faxr
  | .pp => .faw
  | .rsid => .f2xr

/-- The header length of a format in bytes, the opcode byte counted (R91, R92). -/
def Format.headerLength : Format → Nat
  | .f0 | .fr | .fw => 1
  | .fa | .far | .faw | .f2xr => 4
  | .faxr => 5

/-- The default opcodes of R94 (log 33). -/
def Opcodes.default : Opcodes where
  nop := 0x00; rsten := 0x66; rst := 0x99; rdsr := 0x05; wrsr := 0x01; rdcr := 0x35; read := 0x03
  hsread := 0x0B; wren := 0x06; wrdi := 0x04; se := 0x20; be := 0xD8; ce := 0xC7; pp := 0x02
  rdid := 0x9F; sfdp := 0x5A; rbpr := 0x72; ulbpr := 0x98; rsid := 0x88; dpd := 0xB9; rdpd := 0xAB

/-- The parameters a machine starts with: the defaults of R7 where it gives one; the four times and
`VERIFY_AFTER_WRITE` have no default there (DESIGN CHOICE, log 3; the identifier is PRESUMED, log 9). -/
def Params.default : Params where
  sectorSize := 4096
  deviceSize := 2 ^ 24
  tProgMs := 10
  tEraseMs := 100
  tInitMs := 1000
  pollIntervalMs := 1
  verifyAfterWrite := false
  checkWelCleared := false
  verifySlice := 256
  expectedId := { vendor := 0xBF, device := 0x26, capacity := 0x43 }
  ops := Opcodes.default
  wordSize := 4
  wordsPerBlock := 1024
  totalBlocks := 4096
  protAfterReset := true

/-! ## The request codes (R100) -/

/-- The 19 requests of R100, in its order, as names only. -/
inductive Req where
  | bringUp | reset | read | write | eraseSector | verifySectorErased | busyPoll | checkId | readStatus | readConfig
  | writeEnable | writeDisable | writeStatus | unlockAllBlocks
  | blockRead | blockWrite | blockErase | blockEraseVerify | systemError
  deriving DecidableEq, Repr

/-- Every request once. -/
def Req.all : List Req :=
  [.bringUp, .reset, .read, .write, .eraseSector, .verifySectorErased, .busyPoll, .checkId, .readStatus, .readConfig,
   .writeEnable, .writeDisable, .writeStatus, .unlockAllBlocks,
   .blockRead, .blockWrite, .blockErase, .blockEraseVerify, .systemError]

/-- The code of a request (R100). -/
def Req.code : Req → Byte
  | .bringUp => 0x00 | .reset => 0x01 | .read => 0x02 | .write => 0x03 | .eraseSector => 0x04
  | .verifySectorErased => 0x05 | .busyPoll => 0x06 | .checkId => 0x07 | .readStatus => 0x08 | .readConfig => 0x09
  | .writeEnable => 0x0A | .writeDisable => 0x0B | .writeStatus => 0x0C | .unlockAllBlocks => 0x0D
  | .blockRead => 0x10 | .blockWrite => 0x11 | .blockErase => 0x12 | .blockEraseVerify => 0x13 | .systemError => 0x14

/-- The request a code selects (R100). -/
def Req.ofCode (b : Byte) : Option Req := Req.all.find? (fun r => decide (r.code = b))

/-- The bytes of a request's operands, its buffer not counted (R100). -/
def Req.operandBytes : Req → Nat
  | .read | .write | .eraseSector | .blockRead | .blockWrite | .blockErase => 8
  | .verifySectorErased | .busyPoll | .blockEraseVerify | .systemError => 4
  | .writeStatus => 2
  | .bringUp | .reset | .checkId | .readStatus | .readConfig | .writeEnable | .writeDisable | .unlockAllBlocks => 0

/-! ## Bytes of an address and of an operand -/

/-- The three header bytes of an address, most significant first (R62, R97). -/
def bytes24 (a : Addr24) : List Byte :=
  [BitVec.ofNat 8 (a.toNat / 65536), BitVec.ofNat 8 (a.toNat / 256), BitVec.ofNat 8 a.toNat]

/-- The address of three header bytes (R92). -/
def join24 (x y z : Byte) : Addr24 := BitVec.ofNat 24 (x.toNat * 65536 + y.toNat * 256 + z.toNat)

/-- The two address bytes of an `F2XR` header, most significant first (R91, R92). -/
def bytes16 (a : Addr16) : List Byte := [BitVec.ofNat 8 (a.toNat / 256), BitVec.ofNat 8 a.toNat]

/-- The address of two header bytes (R92). -/
def join16 (x y : Byte) : Addr16 := BitVec.ofNat 16 (x.toNat * 256 + y.toNat)

/-- The four bytes of a request operand, most significant first: R100 gives the operands no byte order
(DESIGN CHOICE, log 17). -/
def bytes32 (w : Word) : List Byte :=
  [BitVec.ofNat 8 (w.toNat / 16777216), BitVec.ofNat 8 (w.toNat / 65536), BitVec.ofNat 8 (w.toNat / 256),
   BitVec.ofNat 8 w.toNat]

/-- The operand of four request bytes (log 17). -/
def join32 (x y z t : Byte) : Word :=
  BitVec.ofNat 32 (x.toNat * 16777216 + y.toNat * 65536 + z.toNat * 256 + t.toNat)

/-! ## Decoding -/

/-- What stands on a port, undecoded: the bytes sent in one frame and how many bytes are received in it (R90), or the
bytes of one request (R100). -/
inductive Wire where
  | frame (tx : List Byte) (nrx : Nat)
  | request (bytes : List Byte)
  deriving DecidableEq, Repr

/-- Why a frame or a request is no instruction (R98, R100, R144). -/
inductive DecodeError where
  /-- A frame with no byte. -/
  | emptyFrame
  /-- The first byte is none of the 21 opcodes. -/
  | unknownOpcode (b : Byte)
  /-- The frame is shorter than its format's header. -/
  | shortHeader
  /-- Bytes after the end of a frame that has no data phase in that direction. -/
  | surplusBytes
  /-- Bytes are received in a frame whose format has no receive phase. -/
  | unexpectedReceive
  /-- The data length is outside the range of format `FW` or `FAW`. -/
  | badDataLength
  /-- A request with no byte. -/
  | emptyRequest
  /-- The request code is not in the table of R100. -/
  | unknownRequest (code : Byte)
  /-- The operands of a request have the wrong length (log 18). -/
  | badOperands (code : Byte)
  /-- The input buffer of a request holds fewer bytes than its count says (R26, log 22). -/
  | bufferTooShort (code : Byte)
  deriving DecidableEq, Repr

/-- Body of a frame of format `F0`. -/
def decodeF0 (i : Instr) (body : List Byte) (nrx : Nat) : Except DecodeError Instr :=
  match body with
  | [] => if nrx = 0 then .ok i else .error .unexpectedReceive
  | _ :: _ => .error .surplusBytes

/-- Body of a frame of format `FR`. -/
def decodeFR (mk : Nat → Instr) (body : List Byte) (nrx : Nat) : Except DecodeError Instr :=
  match body with
  | [] => .ok (mk nrx)
  | _ :: _ => .error .surplusBytes

/-- Body of a frame of format `FW`: two data bytes (R91, R128). -/
def decodeFW (mk : Byte → Byte → Instr) (body : List Byte) (nrx : Nat) : Except DecodeError Instr :=
  match body with
  | [st, cf] => if nrx = 0 then .ok (mk st cf) else .error .unexpectedReceive
  | _ => .error .badDataLength

/-- Body of a frame of format `FA`. -/
def decodeFA (mk : Addr24 → Instr) (body : List Byte) (nrx : Nat) : Except DecodeError Instr :=
  match body with
  | [x, y, z] => if nrx = 0 then .ok (mk (join24 x y z)) else .error .unexpectedReceive
  | _ :: _ :: _ :: _ :: _ => .error .surplusBytes
  | _ => .error .shortHeader

/-- Body of a frame of format `FAR`. -/
def decodeFAR (mk : Addr24 → Nat → Instr) (body : List Byte) (nrx : Nat) : Except DecodeError Instr :=
  match body with
  | [x, y, z] => .ok (mk (join24 x y z) nrx)
  | _ :: _ :: _ :: _ :: _ => .error .surplusBytes
  | _ => .error .shortHeader

/-- Body of a frame of format `FAXR`: the last header byte is the dummy. -/
def decodeFAXR (mk : Addr24 → Byte → Nat → Instr) (body : List Byte) (nrx : Nat) : Except DecodeError Instr :=
  match body with
  | [x, y, z, t] => .ok (mk (join24 x y z) t nrx)
  | _ :: _ :: _ :: _ :: _ :: _ => .error .surplusBytes
  | _ => .error .shortHeader

/-- Body of a frame of format `FAW`: 1 to 256 data bytes. -/
def decodeFAW (mk : Addr24 → List Byte → Instr) (body : List Byte) (nrx : Nat) : Except DecodeError Instr :=
  match body with
  | x :: y :: z :: d =>
    if nrx = 0 then
      if 1 ≤ d.length ∧ d.length ≤ pageSize then .ok (mk (join24 x y z) d) else .error .badDataLength
    else .error .unexpectedReceive
  | _ => .error .shortHeader

/-- Body of a frame of format `F2XR`: two address bytes and the dummy. -/
def decodeF2XR (mk : Addr16 → Byte → Nat → Instr) (body : List Byte) (nrx : Nat) : Except DecodeError Instr :=
  match body with
  | [x, y, t] => .ok (mk (join16 x y) t nrx)
  | _ :: _ :: _ :: _ :: _ => .error .surplusBytes
  | _ => .error .shortHeader

/-- The rest of a frame after its opcode (R91, R93). -/
def decodeBody (c : Cmd) (body : List Byte) (nrx : Nat) : Except DecodeError Instr :=
  match c with
  | .nop => decodeF0 .nop body nrx
  | .rsten => decodeF0 .rsten body nrx
  | .rst => decodeF0 .rst body nrx
  | .rdsr => decodeFR .rdsr body nrx
  | .wrsr => decodeFW .wrsr body nrx
  | .rdcr => decodeFR .rdcr body nrx
  | .read => decodeFAR .read body nrx
  | .hsread => decodeFAXR .hsread body nrx
  | .wren => decodeF0 .wren body nrx
  | .wrdi => decodeF0 .wrdi body nrx
  | .se => decodeFA .se body nrx
  | .be => decodeFA .be body nrx
  | .ce => decodeF0 .ce body nrx
  | .pp => decodeFAW .pp body nrx
  | .rdid => decodeFR .rdid body nrx
  | .sfdp => decodeFAXR .sfdp body nrx
  | .rbpr => decodeFR .rbpr body nrx
  | .ulbpr => decodeF0 .ulbpr body nrx
  | .rsid => decodeF2XR .rsid body nrx
  | .dpd => decodeF0 .dpd body nrx
  | .rdpd => decodeF0 .rdpd body nrx

/-- A frame: its first byte selects the command (R90). -/
def decodeFrame (o : Opcodes) (tx : List Byte) (nrx : Nat) : Except DecodeError Instr :=
  match tx with
  | [] => .error .emptyFrame
  | b :: body =>
    match o.cmdOf b with
    | none => .error (.unknownOpcode b)
    | some c => decodeBody c body nrx

/-- A request with no operand. -/
def decodeReq0 (code : Byte) (i : Instr) (body : List Byte) : Except DecodeError Instr :=
  match body with
  | [] => .ok i
  | _ :: _ => .error (.badOperands code)

/-- A request with one 32-bit operand. -/
def decodeReq1 (code : Byte) (mk : Word → Instr) (body : List Byte) : Except DecodeError Instr :=
  match body with
  | [a, b, c, d] => .ok (mk (join32 a b c d))
  | _ => .error (.badOperands code)

/-- A request with two 32-bit operands. -/
def decodeReq2 (code : Byte) (mk : Word → Word → Instr) (body : List Byte) : Except DecodeError Instr :=
  match body with
  | [a, b, c, d, e, f, g, h] => .ok (mk (join32 a b c d) (join32 e f g h))
  | _ => .error (.badOperands code)

/-- A request with two byte operands (R100, `writeStatus`). -/
def decodeReqBytes (code : Byte) (mk : Byte → Byte → Instr) (body : List Byte) : Except DecodeError Instr :=
  match body with
  | [a, b] => .ok (mk a b)
  | _ => .error (.badOperands code)

/-- A request with two 32-bit operands and an input buffer of at least `unit` bytes for each unit of the second (R26). -/
def decodeReqBuffer (code : Byte) (unit : Nat) (mk : Word → Word → List Byte → Instr) (body : List Byte) :
    Except DecodeError Instr :=
  match body with
  | a :: b :: c :: d :: e :: f :: g :: h :: buf =>
    if (join32 e f g h).toNat * unit ≤ buf.length then .ok (mk (join32 a b c d) (join32 e f g h) buf)
    else .error (.bufferTooShort code)
  | _ => .error (.badOperands code)

/-- The operands of a request after its code, by the table of R100. -/
def decodeOperands (p : Params) (r : Req) (body : List Byte) : Except DecodeError Instr :=
  match r with
  | .bringUp => decodeReq0 r.code .reqInitialize body
  | .reset => decodeReq0 r.code .reqReset body
  | .read => decodeReq2 r.code .reqRead body
  | .write => decodeReqBuffer r.code 1 .reqWrite body
  | .eraseSector => decodeReq2 r.code .reqEraseSector body
  | .verifySectorErased => decodeReq1 r.code .reqVerifySectorErased body
  | .busyPoll => decodeReq1 r.code .reqBusyPoll body
  | .checkId => decodeReq0 r.code .reqCheckId body
  | .readStatus => decodeReq0 r.code .reqReadStatus body
  | .readConfig => decodeReq0 r.code .reqReadConfig body
  | .writeEnable => decodeReq0 r.code .reqWriteEnable body
  | .writeDisable => decodeReq0 r.code .reqWriteDisable body
  | .writeStatus => decodeReqBytes r.code .reqWriteStatus body
  | .unlockAllBlocks => decodeReq0 r.code .reqUnlockAllBlocks body
  | .blockRead => decodeReq2 r.code .reqBlockRead body
  | .blockWrite => decodeReqBuffer r.code p.wordSize .reqBlockWrite body
  | .blockErase => decodeReq2 r.code .reqBlockErase body
  | .blockEraseVerify => decodeReq1 r.code .reqBlockEraseVerify body
  | .systemError => decodeReq1 r.code .reqSystemError body

/-- A request: its first byte selects it (R100). -/
def decodeRequest (p : Params) (bytes : List Byte) : Except DecodeError Instr :=
  match bytes with
  | [] => .error .emptyRequest
  | code :: body =>
    match Req.ofCode code with
    | none => .error (.unknownRequest code)
    | some r => decodeOperands p r body

/-- The decoder, total on whatever stands on a port. -/
def decode (p : Params) : Wire → Except DecodeError Instr
  | .frame tx nrx => decodeFrame p.ops tx nrx
  | .request bytes => decodeRequest p bytes

/-! ## Encoding -/

/-- The frame or the request of an instruction (R91, R100). -/
def encode (p : Params) : Instr → Wire
  | .nop => .frame [p.ops.nop] 0
  | .rsten => .frame [p.ops.rsten] 0
  | .rst => .frame [p.ops.rst] 0
  | .rdsr n => .frame [p.ops.rdsr] n
  | .wrsr st cf => .frame [p.ops.wrsr, st, cf] 0
  | .rdcr n => .frame [p.ops.rdcr] n
  | .read a n => .frame (p.ops.read :: bytes24 a) n
  | .hsread a x n => .frame (p.ops.hsread :: (bytes24 a ++ [x])) n
  | .wren => .frame [p.ops.wren] 0
  | .wrdi => .frame [p.ops.wrdi] 0
  | .se a => .frame (p.ops.se :: bytes24 a) 0
  | .be a => .frame (p.ops.be :: bytes24 a) 0
  | .ce => .frame [p.ops.ce] 0
  | .pp a d => .frame (p.ops.pp :: (bytes24 a ++ d)) 0
  | .rdid n => .frame [p.ops.rdid] n
  | .sfdp a x n => .frame (p.ops.sfdp :: (bytes24 a ++ [x])) n
  | .rbpr n => .frame [p.ops.rbpr] n
  | .ulbpr => .frame [p.ops.ulbpr] 0
  | .rsid a x n => .frame (p.ops.rsid :: (bytes16 a ++ [x])) n
  | .dpd => .frame [p.ops.dpd] 0
  | .rdpd => .frame [p.ops.rdpd] 0
  | .reqInitialize => .request [Req.code .bringUp]
  | .reqReset => .request [Req.code .reset]
  | .reqRead addr size => .request (Req.code .read :: (bytes32 addr ++ bytes32 size))
  | .reqWrite addr size buf => .request (Req.code .write :: (bytes32 addr ++ bytes32 size ++ buf))
  | .reqEraseSector addr cnt => .request (Req.code .eraseSector :: (bytes32 addr ++ bytes32 cnt))
  | .reqVerifySectorErased addr => .request (Req.code .verifySectorErased :: bytes32 addr)
  | .reqBusyPoll t => .request (Req.code .busyPoll :: bytes32 t)
  | .reqCheckId => .request [Req.code .checkId]
  | .reqReadStatus => .request [Req.code .readStatus]
  | .reqReadConfig => .request [Req.code .readConfig]
  | .reqWriteEnable => .request [Req.code .writeEnable]
  | .reqWriteDisable => .request [Req.code .writeDisable]
  | .reqWriteStatus st cf => .request [Req.code .writeStatus, st, cf]
  | .reqUnlockAllBlocks => .request [Req.code .unlockAllBlocks]
  | .reqBlockRead addr words => .request (Req.code .blockRead :: (bytes32 addr ++ bytes32 words))
  | .reqBlockWrite addr words src => .request (Req.code .blockWrite :: (bytes32 addr ++ bytes32 words ++ src))
  | .reqBlockErase block cnt => .request (Req.code .blockErase :: (bytes32 block ++ bytes32 cnt))
  | .reqBlockEraseVerify block => .request (Req.code .blockEraseVerify :: bytes32 block)
  | .reqSystemError code => .request (Req.code .systemError :: bytes32 code)

/-- The bytes sent in the frame of a chip command; none for a request. -/
def Wire.sent : Wire → List Byte
  | .frame tx _ => tx
  | .request _ => []

/-- The number of bytes received in the frame of a chip command; none for a request. -/
def Wire.received : Wire → Nat
  | .frame _ n => n
  | .request _ => 0

/-! ## Words of the opcode table -/

/-- The `k` bytes of a word of the opcode table, most significant first: the table's multi-byte rows read the header as
one big-endian number (R92). -/
def tableBytes : Nat → Nat → List Byte
  | 0, _ => []
  | k + 1, w => BitVec.ofNat 8 (w / 256 ^ k) :: tableBytes k w

/-- The data bytes the shortest frame of a command sends after its header (R91). -/
def Cmd.leastData : Cmd → Nat
  | .wrsr => 2
  | .pp => 1
  | .nop | .rsten | .rst | .rdsr | .rdcr | .read | .hsread | .wren | .wrdi | .se | .be | .ce | .rdid | .sfdp | .rbpr
  | .ulbpr | .rsid | .dpd | .rdpd => 0

/-- The bytes received in the frame of a command where R91 fixes their number; 1 for RBPR, whose number is in no source,
and 0 where any number may be received (log 19). -/
def Cmd.usualReceive : Cmd → Nat
  | .rdsr | .rdcr | .rbpr => 1
  | .rdid => 3
  | .nop | .rsten | .rst | .wrsr | .read | .hsread | .wren | .wrdi | .se | .be | .ce | .pp | .sfdp
  | .ulbpr | .rsid | .dpd | .rdpd => 0

/-- The operand bytes of the request a code selects, its buffer empty (R100). -/
def requestOperandBytes (b : Byte) : Nat :=
  match Req.ofCode b with
  | some r => r.operandBytes
  | none => 0

/-- What a word of the opcode table puts on a port: a chip command when its first byte is an opcode whose header has
the word's length, else a request. The two numberings of the table overlap in five bytes, which are taken as chip
commands (log 19). Data and operand bytes the table gives no bits are zero. -/
def tableWire (p : Params) (nbits w : Nat) : Wire :=
  match tableBytes (nbits / 8) w with
  | [] => .request []
  | b :: body =>
    match p.ops.cmdOf b with
    | some c =>
      if body.length + 1 = c.format.headerLength then
        .frame (b :: (body ++ List.replicate c.leastData 0)) c.usualReceive
      else .request (b :: (body ++ List.replicate (requestOperandBytes b) 0))
    | none => .request (b :: (body ++ List.replicate (requestOperandBytes b) 0))

/-- The instruction the decoder reads from a word of the opcode table, with the default parameters. -/
def decodeTableWord (nbits w : Nat) : Option Instr :=
  match decode Params.default (tableWire Params.default nbits w) with
  | .ok i => some i
  | .error _ => none

end Sys2Proof
end

