-- ==== Sys2Proof/Machine/State.lean ====
section
/-! DEFINITION. The machine's state as plain data (10_state), the reasons a step can stop, and the state after reset. -/

namespace Sys2Proof.Machine

/-- The phases of a frame (R22). -/
inductive Phase where
  | idle | latchCheck | reject | selected | commandSent | dataPhase | deselected
  deriving DecidableEq, Repr

/-- The operation context registers other than OP, PH, ST and SEL (R21). -/
structure Context where
  /-- `SEQ.A`, the current byte address, unmasked. -/
  a   : Word
  /-- `SEQ.OFF`, offset into the host buffer. -/
  off : Word
  /-- `SEQ.REM`, bytes still to transfer. -/
  rem : Word
  /-- `SEQ.N`, 9 bits, length of the current chunk. -/
  n   : BitVec 9
  /-- `SEQ.T0`, clock sample at the start of a bounded wait. -/
  t0  : Nat
  /-- `SEQ.SRS`, the status byte just received. -/
  srs : Byte
  deriving DecidableEq, Repr

/-- An operation of `SEQ` with its operands (R21, R100); `adapter` says whether the request came through `ADAPTER`, which
delegates to it (R230). -/
inductive Op where
  /-- `initialize` (R191); `systemError` (R235) when `adapter`. -/
  | bringUp (adapter : Bool)
  /-- R192. -/
  | reset
  /-- R193; `blockRead` (R231) when `adapter`. -/
  | read (adapter : Bool) (addr size : Word)
  /-- R200; `blockWrite` (R232) when `adapter`. Its data is the host's buffer, which is no state of `SEQ` (R26). -/
  | write (adapter : Bool) (addr size : Word)
  /-- R204; `blockErase` (R233) when `adapter`. -/
  | eraseSector (adapter : Bool) (addr : Word)
  /-- R205; `blockEraseVerify` (R234) when `adapter`. -/
  | verifySectorErased (adapter : Bool) (addr : Word)
  /-- R174. -/
  | busyPoll (timeoutMs : Word)
  /-- R176. -/
  | checkId
  /-- R166. -/
  | readStatus
  /-- R167. -/
  | readConfig
  /-- R168. -/
  | writeEnable
  /-- R169. -/
  | writeDisable
  /-- R178. -/
  | writeStatus (status config : Byte)
  /-- R177. -/
  | unlockAllBlocks
  deriving DecidableEq, Repr

/-- Where in its pseudocode an operation stands: what its next step is, one frame, one clock sample or one wait (R6, R180,
log 30). The frames are those of R165. -/
inductive Point where
  /-- The RSTEN frame of `reset` (R192). -/
  | rsten
  /-- The RST frame of `reset` (R192). -/
  | rst
  /-- `SEQ.T0 <- Now()` (R174, R191). -/
  | sample
  /-- The RDID frame of `checkId` (R176). -/
  | identify
  /-- The WREN frame of `writeEnable` (R168). -/
  | enable
  /-- The RDSR frame of `latchCheck` (R172). -/
  | latch
  /-- The frame of the latch-consuming command: PP, SE, ULBPR or WRSR (R170). -/
  | command
  /-- The RDSR frame of one iteration of the busy-poll (R174). -/
  | poll
  /-- The clock sample of the timeout test (R174, R191). -/
  | test
  /-- `Wait(POLL_INTERVAL_MS)` (R174, R191). -/
  | wait
  /-- The WRDI frame of `writeDisable` (R169). -/
  | disable
  /-- The RDSR frame of `checkCleared` (R179). -/
  | cleared
  /-- The READ frame of the read-back (R202). -/
  | readBack
  /-- The READ frame of one slice of the erase check (R205). -/
  | slice
  /-- The READ frame of `read` (R193). -/
  | transfer
  /-- The RDSR frame of `readStatus` (R166). -/
  | status
  /-- The RDCR frame of `readConfig` (R167). -/
  | config
  deriving DecidableEq, Repr

/-- An operation in progress and the point it has reached. -/
structure Task where
  op : Op
  pt : Point
  deriving DecidableEq, Repr

/-- The sequencer (R21). -/
structure Seq where
  /-- `SEQ.OP`, the operation in progress, with its point (log 30). -/
  op  : Option Task
  /-- `SEQ.PH` (R22). -/
  ph  : Phase
  /-- `SEQ.SEL` (R25). -/
  sel : Bool
  /-- `SEQ.ST`, the status being returned (R21, R306); between one return and the next it keeps the last status (log 36). -/
  st  : Status
  ctx : Context
  deriving DecidableEq, Repr

/-- `DEV.PEND`, the in-flight operation (R37). -/
inductive Pend where
  | none
  | program (a : Nat) (data : List Byte)
  | erase (lo hi : Nat)
  deriving DecidableEq, Repr

/-- Array contents in one canonical form: addresses strictly rising, no entry equal to what an unlisted address reads
as, the erased byte (log 7). -/
abbrev Memory := List Host.Cell

/-- The protected addresses, as a list of ranges `[lo, hi)` (log 29). -/
abbrev Protection := List (Nat × Nat)

/-- The device (R30). The status register is `busy`, `wel` and `aux`; its bits 7:6 have no storage (R35). -/
structure Dev where
  /-- `DEV.SR.BUSY` (R32). -/
  busy : Bool
  /-- `DEV.SR.WEL` (R33). -/
  wel  : Bool
  /-- `SR_AUX`, status bits 5:2 (R34). -/
  aux  : BitVec 4
  /-- `DEV.CR` (R36). -/
  cr   : Byte
  /-- `DEV.PEND` (R37). -/
  pend : Pend
  /-- `DEV.PROT` (R38). -/
  prot : Protection
  /-- `DEV.ARM` (R39). -/
  arm  : Bool
  /-- `DEV.DPD` (R40). -/
  dpd  : Bool
  /-- `DEV.ID` (R41). -/
  id   : ChipId
  /-- `DEV.MEM` (R42). -/
  mem  : Memory
  /-- `DEV.SFDP`, the listed bytes from offset 0 (R43, log 10). -/
  sfdp : List Byte
  /-- `DEV.SID`, the listed bytes from offset 0 (R43, log 10). -/
  sid  : List Byte
  /-- `DEV.AC` (R44, log 23). -/
  ac   : Addr24
  deriving DecidableEq, Repr

/-- The environment's moves at one step of `SEQ` (R70, R161, R162, R268; log 2): whether `ENGINE.complete` comes just
before it, how much time passes, how `BUS` answers the header call and the data call when the step is a frame, and whether
the device takes no frame then, being absent or still resetting (R131), or the frame never reaching it (R126; log 34). -/
structure Slot where
  complete : Bool
  tick     : Nat
  hdrErr   : Option BusError
  dataErr  : Option BusError
  absent   : Bool
  deriving DecidableEq, Repr

/-- One frame of the trace (R14): the bytes of the transmit calls made, the bytes received, and the transport error. -/
structure FrameRec where
  tx  : List Byte
  rx  : List Byte
  err : Option BusError
  deriving DecidableEq, Repr

/-- The host's side of the request port: its buffers, which are no state of `SEQ` (R26), and what it gets back beside the
status (R307, log 25). -/
structure HostPort where
  /-- The input buffer of the last `write` or `blockWrite`, which the host keeps unchanged until the status returns (R26,
  R307). -/
  inp      : List Byte
  /-- The output buffer of the last request, or the byte it returned (R26). -/
  out      : List Byte
  /-- The engine code of the last request when it was an adapter operation (R236). -/
  engine   : Option EngineCode
  /-- The last answer to a geometry query, `(TOTAL_BLOCKS, WORDS_PER_BLOCK)` (R237). -/
  geometry : Option (Nat × Nat)
  deriving DecidableEq, Repr

/-- What `HOST` presents next (R306, R307; log 20). -/
inductive Item where
  /-- A frame put on the bus, or a request. -/
  | wire (w : Wire)
  /-- The host lets time pass (R307). -/
  | idle
  /-- A geometry query (R237). -/
  | geometry
  /-- Device power-on (R45, log 26). -/
  | powerOn
  /-- Reset of the sequencer (R47, log 26). -/
  | seqReset
  deriving DecidableEq, Repr

/-- The state of the machine. -/
structure State where
  /-- The implementation parameters (R7, R20); no step changes them (R281). -/
  cfg    : Params
  seq    : Seq
  dev    : Dev
  /-- `CLOCK`, milliseconds (R268). -/
  clock  : Nat
  host   : HostPort
  /-- The frames of the operation, oldest first (R14, log 31). -/
  trace  : List FrameRec
  /-- The phases the operation passed through, oldest first (R22, log 31). -/
  phases : List Phase
  /-- What `HOST` will present, in order (log 20). -/
  inbox  : List Item
  /-- The schedule of `BUS`, `ENGINE` and `CLOCK` (log 2). -/
  env    : List Slot
  /-- The slot that repeats once `env` is used up (log 2). -/
  rest   : Slot
  /-- The counter of free values (log 4). -/
  draw   : Nat
  deriving DecidableEq, Repr

/-- The hardware has no fault: `DEV` raises nothing (R261) and every failure of an operation is a status (R250, R264). -/
inductive Fault where
  deriving DecidableEq, Repr

/-- Why a step has no meaning. All are safe: the model stops where the spec gives no behaviour. -/
inductive Refusal where
  /-- Raised by an arm of `exec` whose instruction has no meaning yet; none is left. -/
  | notModelled (mnemonic : String)
  /-- Raised by `step` on a request code outside the table (R100, U11). -/
  | unknownRequest (code : Byte)
  /-- Raised by `step` on the bytes of a request that are more or fewer than the code and the operands that the table of
  R100 gives it (log 18). -/
  | malformedRequest
  /-- Raised by every request presented while an operation is in progress (R164, U10). -/
  | operationInProgress
  /-- Raised by an adapter request whose product is 2^32 or more (R75, U15). -/
  | productTooLarge
  /-- Raised by a page-program frame that crosses a page boundary and would otherwise be accepted or tested for
  protection (R64, R134, U3; log 13). -/
  | pageCrossing
  /-- Raised by a sector-erase frame at an address that is not sector-aligned (R135, U4; log 13). -/
  | eraseMisaligned
  /-- Raised by every request when the parameters break the constraints of R7 (R281, log 21). -/
  | badParameters
  /-- Raised by a write whose buffer holds fewer bytes than its size, in `exec` and in `step` (R26, log 22). -/
  | bufferTooShort
  /-- Raised by a power-on while a program or erase is in flight (R307, log 26). -/
  | powerLossInFlight
  deriving DecidableEq, Repr

/-- The context registers after reset: undefined in R47, zero here (DESIGN CHOICE, log 5). -/
def Context.zero : Context := { a := 0, off := 0, rem := 0, n := 0, t0 := 0, srs := 0 }

/-- `SEQ` after its reset (R47); `st` and the context are undefined there (log 5). -/
def Seq.atReset : Seq := { op := none, ph := .idle, sel := false, st := .ok, ctx := Context.zero }

/-- `DEV` after power-on (R45), with the identifier of the test vectors and `SR_AUX` = 0 (log 9), `DEV.CR` = 0 (log 8),
an erased array (log 7) and nothing listed in `DEV.SFDP` and `DEV.SID` (log 10). -/
def Dev.atPowerOn : Dev where
  busy := false
  wel := false
  aux := 0
  cr := 0
  pend := .none
  prot := [(0, 2 ^ 24)]
  arm := false
  dpd := false
  id := { vendor := 0xBF, device := 0x26, capacity := 0x43 }
  mem := []
  sfdp := []
  sid := []
  ac := 0

/-- A slot in which nothing fails, no time passes, the device is there, and a pending program or erase completes. -/
def Slot.calm : Slot := { complete := true, tick := 0, hdrErr := none, dataErr := none, absent := false }

/-- The machine right after reset: `SEQ` after its reset (R47), `DEV` after power-on (R45), no request presented. -/
def State.reset : State where
  cfg := Params.default
  seq := Seq.atReset
  dev := Dev.atPowerOn
  clock := 0
  host := { inp := [], out := [], engine := none, geometry := none }
  trace := []
  phases := []
  inbox := []
  env := []
  rest := Slot.calm
  draw := 0

end Sys2Proof.Machine
end

