-- ==== Sys2Proof/Machine/Flags.lean ====
section
/-! DEFINITION. The status register as a byte and the tests `SEQ` makes on a received one (10_state R31 to R35, R24). -/

namespace Sys2Proof.Machine

/-- The status byte of draw `k`: bits 7:6 free, bits 5:2 `SR_AUX`, bit 1 WEL, bit 0 BUSY (R31, R34, R35, R124). -/
def statusByte (k : Nat) (d : Dev) : Byte :=
  Config.freeStatusHi k ++ d.aux ++ BitVec.ofBool d.wel ++ BitVec.ofBool d.busy

/-- The BUSY test of a busy-poll: bit 0 of the byte (R31, R174). -/
def byteBusy (b : Byte) : Bool := b.getLsbD 0

/-- The WEL test of a latch check: bit 1 of the byte (R31, R172). -/
def byteWel (b : Byte) : Bool := b.getLsbD 1

/-- The numeric code of a status in the table of R250. -/
def statusCode : Status → Nat
  | .ok => 0
  | .transportError _ => 1
  | .protocolViolation => 2
  | .timeout => 3
  | .verificationFailure => 4
  | .alignmentError => 5
  | .stateError => 6

/-- The status mapping of the adapter (R236). -/
def engineCode : Status → EngineCode
  | .ok => .success
  | .transportError _ | .protocolViolation | .timeout | .verificationFailure | .alignmentError | .stateError => .error

/-- The names D0 section 4.1 uses for a failure (R258). -/
inductive CoarseName where
  | timeout | protocolError | transportErrorVerbatim | error | invalidWrite
  deriving DecidableEq, Repr

/-- The coarse name of a status that `initialize` returns (R258). -/
def coarseOfInitialize : Status → Option CoarseName
  | .timeout => some .timeout
  | .protocolViolation => some .protocolError
  | .ok | .transportError _ | .verificationFailure | .alignmentError | .stateError => none

/-- The coarse name of a status that `read` returns (R258). -/
def coarseOfRead : Status → Option CoarseName
  | .transportError _ => some .transportErrorVerbatim
  | .ok | .protocolViolation | .timeout | .verificationFailure | .alignmentError | .stateError => none

/-- The coarse name of a status that `write` returns (R258). -/
def coarseOfWrite : Status → Option CoarseName
  | .protocolViolation => some .error
  | .transportError _ => some .error
  | .timeout => some .timeout
  | .verificationFailure => some .invalidWrite
  | .ok | .alignmentError | .stateError => none

/-- The coarse name of a status that `eraseSector` or `verifySectorErased` returns (R258). -/
def coarseOfErase : Status → Option CoarseName
  | .alignmentError => some .error
  | .verificationFailure => some .error
  | .ok | .transportError _ | .protocolViolation | .timeout | .stateError => none

/-- The coarse name of a status that `busyPoll` returns (R258). -/
def coarseOfBusyPoll : Status → Option CoarseName
  | .timeout => some .timeout
  | .ok | .transportError _ | .protocolViolation | .verificationFailure | .alignmentError | .stateError => none

end Sys2Proof.Machine
end

