-- ==== Sys2Proof/Machine/Operands.lean ====
section
/-! DEFINITION. Operand forms and arithmetic (20_memory R61, R65, R75; 30_encoding R97; 43_block_adapter R231, R233) and
the constraints on the parameters (00_scope R7). -/

namespace Sys2Proof.Machine

/-- The constraints of R7 and R94 on the parameters of `SEQ` and `DEV` (log 21). -/
def validParams (p : Params) : Bool :=
  decide (0 < p.sectorSize) && decide (p.sectorSize % pageSize = 0) && decide (2 ^ 24 % p.sectorSize = 0) &&
  decide (0 < p.deviceSize) && decide (p.deviceSize % p.sectorSize = 0) && decide (p.deviceSize ≤ 2 ^ 24) &&
  decide (0 < p.verifySlice) && decide (p.sectorSize % p.verifySlice = 0) && p.ops.distinct

/-- The adapter's own constraint (R7, R233): one block is one sector. An adapter that breaks it still behaves as R233
says (vector X9), so no request tests it. -/
def adapterFits (p : Params) : Bool :=
  decide (p.wordsPerBlock * p.wordSize = p.sectorSize) && decide (p.totalBlocks = p.deviceSize / p.sectorSize)

/-- `SEQ.A & 0xFFFFFF`: the low 24 bits; bits 31:24 are dropped (R75, R97). -/
def maskAddr (a : Word) : Addr24 := a.setWidth 24

/-- `addr24(a)`: the three header bytes of a cursor (R97). -/
def addr24 (a : Word) : List Byte := bytes24 (maskAddr a)

/-- The array address of a 24-bit address field: taken modulo `DEVICE_SIZE` by `DEV` (R61). -/
def deviceAddr (p : Params) (a : Addr24) : Nat := a.toNat % p.deviceSize

/-- The sector-alignment test, on the unmasked operand (R65, R75). -/
def sectorAligned (p : Params) (a : Word) : Bool := decide (a.toNat % p.sectorSize = 0)

/-- `min(REM, PAGE_SIZE - (A mod PAGE_SIZE))`, the length of the next chunk of a write (R75, R200). -/
def chunkLength (a rem : Word) : Nat := min rem.toNat (pageSize - a.toNat % pageSize)

/-- `buf[off .. off + n)` (R10). -/
def slice (buf : List Byte) (off n : Nat) : List Byte := (buf.drop off).take n

/-- An adapter product; outside the spec from 2^32 (R75, U15). -/
def fitsWord (n : Nat) : Bool := decide (n < 2 ^ 32)

/-- `words * WORD_SIZE` (R231). -/
def wordBytes (p : Params) (words : Word) : Nat := words.toNat * p.wordSize

/-- `block * WORDS_PER_BLOCK * WORD_SIZE` (R233). -/
def blockByteAddr (p : Params) (block : Word) : Nat := block.toNat * p.wordsPerBlock * p.wordSize

/-- `BLOCK_RANGE(a)`, cut to the array (R136; log 11). -/
def blockRange (p : Params) (a : Nat) : Nat × Nat :=
  ((Config.blockRange a).1, min (Config.blockRange a).2 p.deviceSize)

/-- The addresses of the page that holds an array address, `[lo, lo + 256)` (R61). -/
def pageStart (a : Nat) : Nat := a - a % pageSize

/-- The first address of the sector that holds an array address (R61). -/
def sectorStart (p : Params) (a : Nat) : Nat := a - a % p.sectorSize

/-- The three identifier bytes in the order read-ID returns them (R41, R62). -/
def idBytes (i : ChipId) : List Byte := [i.vendor, i.device, i.capacity]

end Sys2Proof.Machine
end

