-- ==== Sys2Proof/Machine/Ops.lean ====
section
/-! DEFINITION. The named operations the meanings share: the array, block protection, the completion of an in-flight
program or erase (10_state R37), the three resets (R45 to R47), the schedule, and the exit of an operation with its status,
which is this hardware's counterpart of taking an exception (60_exceptions R264). There is no return from one (R265). -/

namespace Sys2Proof.Machine

/-! ## The array (R42) -/

/-- The byte at an address; an address that is not listed reads as erased (log 7). -/
def memRead : Memory → Nat → Byte
  | [], _ => erasedByte
  | (b, w) :: m, a => if b = a then w else memRead m a

/-- Write one byte, keeping the canonical form. -/
def memWrite : Memory → Nat → Byte → Memory
  | [], a, v => if v = erasedByte then [] else [(a, v)]
  | (b, w) :: m, a, v =>
    if a < b then (if v = erasedByte then (b, w) :: m else (a, v) :: (b, w) :: m)
    else if a = b then (if v = erasedByte then m else (a, v) :: m)
    else (b, w) :: memWrite m a v

/-- The program case of R37: each byte is ANDed with its data byte. -/
def memProgram : Memory → Nat → List Byte → Memory
  | m, _, [] => m
  | m, a, d :: ds => memProgram (memWrite m a (memRead m a &&& d)) (a + 1) ds

/-- The erase case of R37: every byte of `[lo, hi)` becomes 0xFF, which no cell lists. -/
def memErase (m : Memory) (lo hi : Nat) : Memory :=
  m.filter (fun c => !(decide (lo ≤ c.1) && decide (c.1 < hi)))

/-- Write `f x` at the `n` addresses `x` from `lo` on. -/
def memFill (f : Nat → Byte) : Memory → Nat → Nat → Memory
  | m, _, 0 => m
  | m, lo, n + 1 => memFill f (memWrite m lo (f lo)) (lo + 1) n

/-- Addresses strictly rising from above `b`, and no byte listed that is erased. -/
def cellsAbove : Nat → Memory → Bool
  | _, [] => true
  | b, (a, v) :: m => decide (b ≤ a) && decide (v ≠ erasedByte) && cellsAbove (a + 1) m

/-- The canonical form of an array. -/
def Memory.wf (m : Memory) : Bool := cellsAbove 0 m

/-- Every listed address is below `n`. -/
def Memory.below (m : Memory) (n : Nat) : Bool := m.all (fun c => decide (c.1 < n))

/-- The `n` bytes from an address on, the address counter wrapping at `size` (R44, R129). -/
def readBytes (m : Memory) (size lo n : Nat) : List Byte :=
  (List.range n).map (fun i => memRead m ((lo + i) % size))

/-! ## Block protection (R38) -/

/-- `DEV.PROT(x)`. -/
def protAt (p : Protection) (x : Nat) : Bool := p.any (fun r => decide (r.1 ≤ x) && decide (x < r.2))

/-- Some address of `[lo, hi)` is protected (R139). -/
def rangeProtected (p : Protection) (lo hi : Nat) : Bool := p.any (fun r => decide (max r.1 lo < min r.2 hi))

/-- `DEV.PROT` after power-on and after a software reset (R38, R45, R46). -/
def resetProtection (p : Params) : Protection := if p.protAfterReset then [(0, p.deviceSize)] else []

/-! ## Free values -/

/-- `n` free bytes of draw `k`. -/
def freeBytes (f : Nat → Nat → Byte) (k n : Nat) : List Byte := (List.range n).map (f k)

/-- The context registers outside an operation: no defined value (R21, R47; log 6). -/
def freeContext (k : Nat) : Context where
  a := Config.freeContext k 0
  off := Config.freeContext k 1
  rem := Config.freeContext k 2
  n := (Config.freeContext k 3).setWidth 9
  t0 := Config.freeT0 k
  srs := (Config.freeContext k 4).setWidth 8

/-! ## The device's own steps -/

/-- `ENGINE.complete` (R37); it does nothing when nothing is in flight. -/
def engineComplete (d : Dev) : Dev :=
  match d.pend with
  | .none => d
  | .program a data => { d with mem := memProgram d.mem a data, pend := .none, busy := false, wel := false }
  | .erase lo hi => { d with mem := memErase d.mem lo hi, pend := .none, busy := false, wel := false }

/-- The array after an in-flight operation is aborted: its target range is unspecified (R46, U9). -/
def abortedMem (k : Nat) (d : Dev) : Memory :=
  match d.pend with
  | .none => d.mem
  | .program a data => memFill (Config.freeArrayByte k) d.mem a data.length
  | .erase lo hi => memFill (Config.freeArrayByte k) d.mem lo (hi - lo)

/-- Device software reset (R46). -/
def softwareReset (p : Params) (k : Nat) (d : Dev) : Dev :=
  { d with
    busy := false, wel := false, arm := false, dpd := false, prot := resetProtection p,
    cr := Config.freeConfigReg k, mem := abortedMem k d, pend := .none }

/-- Device power-on (R45): as a software reset, but the array is what it held. -/
def powerOnDev (p : Params) (k : Nat) (d : Dev) : Dev :=
  { d with
    busy := false, wel := false, arm := false, dpd := false, prot := resetProtection p,
    cr := Config.freeConfigReg k, pend := .none }

/-- What the device does with one frame: the device after it, the bytes it returns, and the name of a behaviour the
spec gives no meaning (U3, U4), in which case the device is as it was before the frame but for `DEV.ARM`. -/
structure Answer where
  dev     : Dev
  rx      : List Byte
  refusal : Option Refusal

/-! ## Updates of the state -/

/-- The next free value has been used. -/
def State.drawn (s : State) : State := { s with draw := s.draw + 1 }

/-- Replace the device. -/
def State.withDev (d : Dev) (s : State) : State := { s with dev := d }

/-- Replace the context registers. -/
def State.withCtx (c : Context) (s : State) : State := { s with seq := { s.seq with ctx := c } }

/-- `SEQ.PH <- p` (R22). -/
def State.setPhase (p : Phase) (s : State) : State :=
  { s with seq := { s.seq with ph := p }, phases := s.phases ++ [p] }

/-- `SEQ.SEL <- b`: `Select()` and `Deselect()` (R160, R163). -/
def State.setSel (b : Bool) (s : State) : State := { s with seq := { s.seq with sel := b } }

/-- `Deselect()` and the phases that end a frame (R163). -/
def State.deselect (s : State) : State := ((s.setSel false).setPhase .deselected).setPhase .idle

/-- Deliver bytes into the host's output buffer (R26, R307). -/
def State.deliver (bytes : List Byte) (s : State) : State := { s with host := { s.host with out := bytes } }

/-- Add a frame to the trace (R14). -/
def State.record (r : FrameRec) (s : State) : State := { s with trace := s.trace ++ [r] }

/-- The device has consumed a frame and answered. -/
def State.consumed (tx : List Byte) (a : Answer) (s : State) : State :=
  ((s.withDev a.dev).record { tx := tx, rx := a.rx, err := none }).drawn

/-! ## The schedule (R70, R268; log 2) -/

/-- The environment's moves at the next step of `SEQ`. -/
def State.slot (s : State) : Slot := s.env.headD s.rest

/-- Before a step of `SEQ`: time passes, and a pending program or erase may complete. -/
def State.pass (s : State) : State :=
  { s with
    env := s.env.tail, clock := s.clock + s.slot.tick,
    dev := if s.slot.complete then engineComplete s.dev else s.dev }

/-- `SEQ.T0 <- Now()` (R174, R191). -/
def State.sampleT0 (s : State) : State :=
  let s1 := s.pass
  s1.withCtx { s1.seq.ctx with t0 := s1.clock }

/-- `Now() - SEQ.T0 > bound` (R75, R174), on a clock already sampled. -/
def State.overdue (bound : Nat) (s : State) : Bool := decide (bound < s.clock - s.seq.ctx.t0)

/-- `Wait(POLL_INTERVAL_MS)`: the clock advances by at least that (R268). -/
def State.waitPoll (s : State) : State :=
  let s1 := s.pass
  { s1 with clock := s1.clock + s1.cfg.pollIntervalMs }

/-! ## How an operation begins and ends (R164, R190, R264, R306) -/

/-- How one step of an operation ends: it returns a status, or it stands at its next point. -/
inductive Exit where
  | ret (st : Status)
  | goto (pt : Point)
  deriving DecidableEq, Repr

/-- One step of an operation: how it ended, and the state then. -/
abbrev Run := Exit × State

/-- The request came through `ADAPTER` (R230). -/
def Op.adapter : Op → Bool
  | .bringUp a | .read a _ _ | .write a _ _ | .eraseSector a _ | .verifySectorErased a _ => a
  | .reset | .busyPoll _ | .checkId | .readStatus | .readConfig | .writeEnable | .writeDisable | .writeStatus _ _
  | .unlockAllBlocks => false

/-- The return of an operation, on success and on every error: `SEQ.PH <- Idle`, `SEQ.ST` holds the status (R264, R306),
no operation is in progress, the context registers hold no defined value any more (R21), and an adapter operation's
status is mapped (R236). R306 gives `SEQ.ST` its value at this moment only; that the status then stands until the next return
or a reset of `SEQ` is the model's choice (log 36). -/
def State.finish (adapter : Bool) (st : Status) (s : State) : State :=
  { s with
    seq := { s.seq with op := none, ph := .idle, st := st, ctx := freeContext s.draw },
    host := { s.host with engine := if adapter then some (engineCode st) else none },
    draw := s.draw + 1 }

/-- `SEQ.OP` holds the operation in progress, at a point. -/
def State.withTask (t : Task) (s : State) : State := { s with seq := { s.seq with op := some t } }

/-- The state a step of an operation leaves: returned, or in progress at its next point. -/
def settle (op : Op) (r : Run) : State :=
  match r.1 with
  | .ret st => State.finish op.adapter st r.2
  | .goto pt => r.2.withTask { op := op, pt := pt }

/-- Acceptance of a request (R164): `SEQ.OP` and the context registers are written, and the results of the previous
request are cleared (log 25, log 31); `SEQ.ST` is left as it stands (log 36). -/
def State.begin (t : Task) (c : Context) (s : State) : State :=
  { s with
    seq := { s.seq with op := some t, ctx := c }, trace := [], phases := [],
    host := { s.host with out := [], engine := none } }

/-- The host hands over the input buffer of a request (R26, R307). -/
def State.lend (buf : List Byte) (s : State) : State := { s with host := { s.host with inp := buf } }

/-! ## What the host does besides frames and requests -/

/-- The host lets time pass: one slot of the schedule (R307). -/
def State.idle (s : State) : State := s.pass

/-- A geometry query: the two parameters, no frame, no failure (R237). -/
def State.geometryQuery (s : State) : State :=
  { s with host := { s.host with geometry := some (s.cfg.totalBlocks, s.cfg.wordsPerBlock) } }

/-- Device power-on, with no program or erase in flight (R45, R307; log 26). -/
def State.powerOn (s : State) : Host.Outcome State Fault Refusal :=
  match s.dev.pend with
  | .none => .next (s.withDev (powerOnDev s.cfg s.draw s.dev)).drawn
  | .program _ _ | .erase _ _ => .refused .powerLossInFlight

/-- Reset of the sequencer: `Idle`, deselected, no operation, every other register undefined (R47). -/
def State.seqReset (s : State) : State :=
  { s with
    seq := { op := none, ph := .idle, sel := false, st := Config.freeStatus s.draw, ctx := freeContext s.draw },
    draw := s.draw + 1 }

end Sys2Proof.Machine
end

