-- ==== Sys2Proof/Machine/DevControl.lean ====
section
/-! DEFINITION. What the device does, on its own, with the commands that move no array byte: NOP, the reset pair, the
registers, the write-enable latch, block protection and deep power-down (40_device_commands). Each function is the
command's own rule, after the common rule of consumption (R120) has let the frame through: `p` are the parameters, `k`
the draw, `d` the device with `DEV.ARM` already set by the common rule. -/

namespace Sys2Proof.Machine

/-- A frame that ends with the device as `d` and returns `rx`. -/
def answer (d : Dev) (rx : List Byte) : Answer := { dev := d, rx := rx, refusal := none }

/-- R121: nothing. -/
def devNop (d : Dev) : Answer := answer d []

/-- R122: `DEV.ARM <- 1`, which the common rule has done. -/
def devRsten (d : Dev) : Answer := answer d []

/-- R123: a software reset when the frame before it was reset-enable, else nothing. -/
def devRst (p : Params) (k : Nat) (armed : Bool) (d : Dev) : Answer :=
  if armed then answer (softwareReset p k d) [] else answer d []

/-- R124: every byte received is a sample of the same state. -/
def devRdsr (k n : Nat) (d : Dev) : Answer := answer d (List.replicate n (statusByte k d))

/-- R128: with WEL = 1 the second byte replaces `DEV.CR` and WEL is cleared; the first is discarded. -/
def devWrsr (config : Byte) (d : Dev) : Answer :=
  if d.wel then answer { d with cr := config, wel := false } [] else answer d []

/-- R125: the first byte is `DEV.CR`. R91 and R125 give no second byte: the bytes past the first are a constant of the
implementation (DESIGN CHOICE, log 16). -/
def devRdcr (n : Nat) (d : Dev) : Answer :=
  answer d ((List.range n).map fun i => if i = 0 then d.cr else Config.pastConfigByte d.cr i)

/-- R126: WEL becomes 1. -/
def devWren (d : Dev) : Answer := answer { d with wel := true } []

/-- R127: WEL becomes 0. -/
def devWrdi (d : Dev) : Answer := answer { d with wel := false } []

/-- R140: all zero exactly when nothing is protected; otherwise bytes that are not all zero, the same whenever the same
addresses are protected (R68, log 12). -/
def devRbpr (p : Params) (n : Nat) (d : Dev) : Answer :=
  if rangeProtected d.prot 0 p.deviceSize then
    answer d ((List.range n).map fun i =>
      if i = Config.protIndex d.prot n % n then BitVec.ofNat 8 ((Config.protNonzero d.prot n).val + 1)
      else Config.protByte d.prot n i)
  else answer d (List.replicate n 0)

/-- R141: with WEL = 1 nothing is protected any more and WEL is cleared. -/
def devUlbpr (d : Dev) : Answer :=
  if d.wel then answer { d with prot := [], wel := false } [] else answer d []

/-- R142: into deep power-down. -/
def devDpd (d : Dev) : Answer := answer { d with dpd := true } []

/-- R143: out of deep power-down. -/
def devRdpd (d : Dev) : Answer := answer { d with dpd := false } []

end Sys2Proof.Machine
end

