-- ==== Sys2Proof/Machine/DevArray.lean ====
section
/-! DEFINITION. What the device does, on its own, with the commands that read the array or a read-only byte space and
those that start a program or an erase (40_device_commands R129 to R137). The arguments are as in DevControl.lean. -/

namespace Sys2Proof.Machine

/-- R129: `n` bytes from the address on, the counter wrapping at the end of the device; the counter is left where the
read ended (R44, log 23). -/
def devRead (p : Params) (a : Addr24) (n : Nat) (d : Dev) : Answer :=
  let lo := deviceAddr p a
  answer { d with ac := BitVec.ofNat 24 ((lo + n) % p.deviceSize) } (readBytes d.mem p.deviceSize lo n)

/-- R130: as READ; the dummy byte changes nothing. -/
def devHsread (p : Params) (a : Addr24) (n : Nat) (d : Dev) : Answer := devRead p a n d

/-- R131: vendor, device, capacity; bytes after the third are free (U12). -/
def devRdid (k n : Nat) (d : Dev) : Answer :=
  answer d ((List.range n).map fun i => ((idBytes d.id)[i]?).getD (Config.freeReadByte k i))

/-- R132: the SFDP bytes from the offset on; past the listed table they are a constant of the implementation (log 10). -/
def devSfdp (a : Addr24) (n : Nat) (d : Dev) : Answer :=
  answer d ((List.range n).map fun i => (d.sfdp[a.toNat + i]?).getD (Config.sfdpByte (a.toNat + i)))

/-- R133: the security-ID bytes from the offset on, as in R132 (log 10). -/
def devRsid (a : Addr16) (n : Nat) (d : Dev) : Answer :=
  answer d ((List.range n).map fun i => (d.sid[a.toNat + i]?).getD (Config.sidByte (a.toNat + i)))

/-- Start an erase of `[lo, hi)`: ignored without the latch; ignored, WEL then being unspecified, when an address of it
is protected (R135, R139, U8). The latch is tested first (log 27). -/
def startErase (k lo hi : Nat) (d : Dev) : Answer :=
  if d.wel then
    if rangeProtected d.prot lo hi then answer { d with wel := Config.freeWel k } []
    else answer { d with pend := .erase lo hi, busy := true } []
  else answer d []

/-- R135; an address that is not sector-aligned has no meaning (U4, log 13). -/
def devSe (p : Params) (k : Nat) (a : Addr24) (d : Dev) : Answer :=
  let lo := deviceAddr p a
  if d.wel && decide (lo % p.sectorSize ≠ 0) then { dev := d, rx := [], refusal := some .eraseMisaligned }
  else startErase k lo (lo + p.sectorSize) d

/-- R136: as R135 with `BLOCK_RANGE` (log 11). -/
def devBe (p : Params) (k : Nat) (a : Addr24) (d : Dev) : Answer :=
  startErase k (blockRange p (deviceAddr p a)).1 (blockRange p (deviceAddr p a)).2 d

/-- R137: the whole array. -/
def devCe (p : Params) (k : Nat) (d : Dev) : Answer := startErase k 0 p.deviceSize d

/-- R134; a page-program that crosses a page boundary has no meaning (U3, log 13). -/
def devPp (p : Params) (k : Nat) (a : Addr24) (data : List Byte) (d : Dev) : Answer :=
  let lo := deviceAddr p a
  if d.wel then
    if pageSize < lo % pageSize + data.length then { dev := d, rx := [], refusal := some .pageCrossing }
    else if rangeProtected d.prot lo (lo + data.length) then answer { d with wel := Config.freeWel k } []
    else answer { d with pend := .program lo data, busy := true, ac := a + BitVec.ofNat 24 data.length } []
  else answer d []

end Sys2Proof.Machine
end

