-- ==== Sys2Proof/Machine/Device.lean ====
section
/-! DEFINITION. How the device consumes a frame (40_device_commands R120, R138, R144), what it consumed when the transport
failed inside one (U6), and the frames a host puts on the bus itself (95_test_vectors, family D; log 28). -/

namespace Sys2Proof.Machine

/-- The frame is a reset-enable (R39). -/
def isRsten : Instr → Bool
  | .rsten => true
  | .nop | .rst | .rdsr _ | .wrsr _ _ | .rdcr _ | .read _ _ | .hsread _ _ _ | .wren | .wrdi | .se _ | .be _ | .ce
  | .pp _ _ | .rdid _ | .sfdp _ _ _ | .rbpr _ | .ulbpr | .rsid _ _ _ | .dpd | .rdpd
  | .reqInitialize | .reqReset | .reqRead _ _ | .reqWrite _ _ _ | .reqEraseSector _ _ | .reqVerifySectorErased _
  | .reqBusyPoll _ | .reqCheckId | .reqReadStatus | .reqReadConfig | .reqWriteEnable | .reqWriteDisable
  | .reqWriteStatus _ _ | .reqUnlockAllBlocks | .reqBlockRead _ _ | .reqBlockWrite _ _ _ | .reqBlockErase _ _
  | .reqBlockEraseVerify _ | .reqSystemError _ => false

/-- The frame is accepted in deep power-down (R142). -/
def isRdpd : Instr → Bool
  | .rdpd => true
  | .nop | .rsten | .rst | .rdsr _ | .wrsr _ _ | .rdcr _ | .read _ _ | .hsread _ _ _ | .wren | .wrdi | .se _ | .be _
  | .ce | .pp _ _ | .rdid _ | .sfdp _ _ _ | .rbpr _ | .ulbpr | .rsid _ _ _ | .dpd
  | .reqInitialize | .reqReset | .reqRead _ _ | .reqWrite _ _ _ | .reqEraseSector _ _ | .reqVerifySectorErased _
  | .reqBusyPoll _ | .reqCheckId | .reqReadStatus | .reqReadConfig | .reqWriteEnable | .reqWriteDisable
  | .reqWriteStatus _ _ | .reqUnlockAllBlocks | .reqBlockRead _ _ | .reqBlockWrite _ _ _ | .reqBlockErase _ _
  | .reqBlockEraseVerify _ | .reqSystemError _ => false

/-- The frame is accepted while BUSY = 1 (R138). -/
def acceptedBusy : Instr → Bool
  | .rdsr _ | .rdcr _ | .rsten | .rst => true
  | .nop | .wrsr _ _ | .read _ _ | .hsread _ _ _ | .wren | .wrdi | .se _ | .be _
  | .ce | .pp _ _ | .rdid _ | .sfdp _ _ _ | .rbpr _ | .ulbpr | .rsid _ _ _ | .dpd | .rdpd
  | .reqInitialize | .reqReset | .reqRead _ _ | .reqWrite _ _ _ | .reqEraseSector _ _ | .reqVerifySectorErased _
  | .reqBusyPoll _ | .reqCheckId | .reqReadStatus | .reqReadConfig | .reqWriteEnable | .reqWriteDisable
  | .reqWriteStatus _ _ | .reqUnlockAllBlocks | .reqBlockRead _ _ | .reqBlockWrite _ _ _ | .reqBlockErase _ _
  | .reqBlockEraseVerify _ | .reqSystemError _ => false

/-- The number of bytes received in the frame's data phase (R91). -/
def received (i : Instr) : Nat := (encode Params.default i).received

/-- A frame the device ignores: the bytes it returns are free (R120, U2). -/
def ignored (k n : Nat) (d : Dev) : Answer := answer d (freeBytes Config.freeReadByte k n)

/-- The own rule of each command. A request is no frame: the device does not see it. -/
def ownRule (p : Params) (k : Nat) (armed : Bool) (i : Instr) (d : Dev) : Answer :=
  match i with
  | .nop => devNop d
  | .rsten => devRsten d
  | .rst => devRst p k armed d
  | .rdsr n => devRdsr k n d
  | .wrsr _ cf => devWrsr cf d
  | .rdcr n => devRdcr n d
  | .read a n => devRead p a n d
  | .hsread a _ n => devHsread p a n d
  | .wren => devWren d
  | .wrdi => devWrdi d
  | .se a => devSe p k a d
  | .be a => devBe p k a d
  | .ce => devCe p k d
  | .pp a data => devPp p k a data d
  | .rdid n => devRdid k n d
  | .sfdp a _ n => devSfdp a n d
  | .rbpr n => devRbpr p n d
  | .ulbpr => devUlbpr d
  | .rsid a _ n => devRsid a n d
  | .dpd => devDpd d
  | .rdpd => devRdpd d
  | .reqInitialize | .reqReset | .reqRead _ _ | .reqWrite _ _ _ | .reqEraseSector _ _ | .reqVerifySectorErased _
  | .reqBusyPoll _ | .reqCheckId | .reqReadStatus | .reqReadConfig | .reqWriteEnable | .reqWriteDisable
  | .reqWriteStatus _ _ | .reqUnlockAllBlocks | .reqBlockRead _ _ | .reqBlockWrite _ _ _ | .reqBlockErase _ _
  | .reqBlockEraseVerify _ | .reqSystemError _ => answer d []

/-- Consumption of a frame that is one of the 21 commands (R120): `DEV.ARM` first, then deep power-down, busy, the fit
to the format, and the command's own rule. -/
def devFrame (p : Params) (k : Nat) (i : Instr) (d : Dev) : Answer :=
  let d1 := { d with arm := isRsten i }
  if d.dpd && !isRdpd i then ignored k (received i) d1
  else if d.busy && !acceptedBusy i then ignored k (received i) d1
  else if i.wf p then ownRule p k d.arm i d1
  else ignored k (received i) d1

/-- A malformed frame or an unknown opcode, whatever its first byte: ignored, only `DEV.ARM` cleared (R98, R144 and ruling
D27). -/
def devMalformed (k nrx : Nat) (d : Dev) : Answer := ignored k nrx { d with arm := false }

/-- Consumption of any frame, from its bytes (R93, R120). -/
def devConsume (p : Params) (k : Nat) (tx : List Byte) (nrx : Nat) (d : Dev) : Answer :=
  match decodeFrame p.ops tx nrx with
  | .ok i => devFrame p k i d
  | .error _ => devMalformed k nrx d

/-! ## A transport failure inside a frame (U6, log 15) -/

/-- What a frame was aimed at, left unspecified: the page of a page-program, the sector of a sector-erase, the
configuration register, the block protection, which may then be any; and WEL. Other frames leave nothing else
unspecified (log 15). -/
def devDisturb (p : Params) (k : Nat) (i : Instr) (d : Dev) : Dev :=
  match i with
  | .pp a _ =>
    { d with wel := Config.freeWel k, mem := memFill (Config.freeArrayByte k) d.mem (pageStart (deviceAddr p a)) pageSize }
  | .se a =>
    { d with
      wel := Config.freeWel k
      mem := memFill (Config.freeArrayByte k) d.mem (sectorStart p (deviceAddr p a)) p.sectorSize }
  | .wrsr _ _ => { d with wel := Config.freeWel k, cr := Config.freeConfigReg k }
  | .ulbpr => { d with wel := Config.freeWel k, prot := Config.freeProtection k }
  | .nop | .rsten | .rst | .rdsr _ | .rdcr _ | .read _ _ | .hsread _ _ _ | .wren | .wrdi | .be _
  | .ce | .rdid _ | .sfdp _ _ _ | .rbpr _ | .rsid _ _ _ | .dpd | .rdpd
  | .reqInitialize | .reqReset | .reqRead _ _ | .reqWrite _ _ _ | .reqEraseSector _ _ | .reqVerifySectorErased _
  | .reqBusyPoll _ | .reqCheckId | .reqReadStatus | .reqReadConfig | .reqWriteEnable | .reqWriteDisable
  | .reqWriteStatus _ _ | .reqUnlockAllBlocks | .reqBlockRead _ _ | .reqBlockWrite _ _ _ | .reqBlockErase _ _
  | .reqBlockEraseVerify _ | .reqSystemError _ => d

/-- The part of a frame that reached the device. -/
def devReached (p : Params) (k : Nat) (tx : List Byte) (nrx : Nat) (reached : Option Nat) (d : Dev) : Dev :=
  match reached with
  | none => d
  | some m => (devConsume p k (tx.take m) (if tx.length ≤ m then nrx else 0) d).dev

/-- The device after a frame whose transport failed: it consumed nothing, or some first bytes of the frame, or all of
it, and what the frame was aimed at may be left unspecified (U6). -/
def devLossy (p : Params) (k : Nat) (tx : List Byte) (nrx : Nat) (d : Dev) : Dev :=
  let d1 := devReached p k tx nrx (Config.freeLoss k).reached d
  if (Config.freeLoss k).disturbed then
    match decodeFrame p.ops tx nrx with
    | .ok i => devDisturb p k i d1
    | .error _ => d1
  else d1

/-! ## A frame of `SEQ` as the device sees it -/

/-- A frame that the device does not take: absent, still resetting, or never reached (R126, R131; log 34). It does not
change, and every byte received is unspecified. -/
def notTaken (k nrx : Nat) (d : Dev) : Answer := answer d (freeBytes Config.freeReadByte k nrx)

/-- A frame none of whose calls failed. -/
def devTakes (p : Params) (k : Nat) (absent : Bool) (tx : List Byte) (nrx : Nat) (d : Dev) : Answer :=
  if absent then notTaken k nrx d else devConsume p k tx nrx d

/-- The device after a frame in which a call failed. -/
def devAfterFailure (p : Params) (k : Nat) (absent : Bool) (tx : List Byte) (nrx : Nat) (d : Dev) : Dev :=
  if absent then d else devLossy p k tx nrx d

/-! ## Frames on the bus that are not `SEQ`'s -/

/-- A chip command put on the bus directly: the device consumes it, and the frame is recorded. -/
def directFrame (i : Instr) (s : State) : Host.Outcome State Fault Refusal :=
  let a := devFrame s.cfg s.draw i s.dev
  match a.refusal with
  | some r => .refused r
  | none => .next (s.consumed (encode s.cfg i).sent a)

/-- A frame that is none of the 21 commands, put on the bus directly (R144, U16). -/
def malformedFrame (tx : List Byte) (nrx : Nat) (s : State) : State :=
  s.consumed tx (devMalformed s.draw nrx s.dev)

end Sys2Proof.Machine
end

