-- ==== Sys2Proof/Machine/Bus.lean ====
section
/-! DEFINITION. The frame procedure, through which every frame of the sequencer goes (41_seq_primitives R160 to R163). -/

namespace Sys2Proof.Machine

/-- What `Frame` returns: a status, the bytes received, and the state after `Deselect()`. -/
structure FrameResult where
  st : Status
  rx : List Byte
  s  : State

/-- Every call returned `BusOk`: the device consumes the frame at `Deselect()` (R163), unless it takes none (log 34). -/
def frameDone (absent : Bool) (tx : List Byte) (nin : Nat) (s : State) : FrameResult :=
  let a := devTakes s.cfg s.draw absent tx nin s.dev
  { st := .ok, rx := a.rx, s := (s.consumed tx a).deselect }

/-- A call failed with `e`, `sent` having been handed to the bus: what the device consumed and the bytes received are
unspecified (R162, R163, U6), and the bus is deselected all the same. -/
def frameFailed (absent : Bool) (tx sent : List Byte) (nin : Nat) (e : BusError) (s : State) : FrameResult :=
  { st := .transportError e
    rx := freeBytes Config.freeBufferByte s.draw nin
    s := (((s.withDev (devAfterFailure s.cfg s.draw absent tx nin s.dev)).record
      { tx := sent, rx := [], err := some e }).drawn).deselect }

/-- `Select()`, with the phase before it (R163). -/
def State.select (s : State) : State := (s.setPhase .selected).setSel true

/-- `Frame(hdr, dout, nin)` (R163). Before it time may pass and a pending program or erase may complete (R70). -/
def seqFrame (hdr dout : List Byte) (nin : Nat) (s : State) : FrameResult :=
  let sl := s.slot
  let s1 := s.pass.select
  match sl.hdrErr with
  | some e => frameFailed sl.absent (hdr ++ dout) hdr nin e s1
  | none =>
    let s2 := s1.setPhase .commandSent
    if dout = [] ∧ nin = 0 then frameDone sl.absent (hdr ++ dout) nin s2
    else
      let s3 := s2.setPhase .dataPhase
      match sl.dataErr with
      | some e => frameFailed sl.absent (hdr ++ dout) (hdr ++ dout) nin e s3
      | none => frameDone sl.absent (hdr ++ dout) nin s3

/-- `if st ≠ Ok return st`: what comes after a frame, which comes only after `Ok` (R180, R190). -/
def onOk (r : FrameResult) (k : State → Run) : Run :=
  match r.st with
  | .ok => k r.s
  | .transportError _ | .protocolViolation | .timeout | .verificationFailure | .alignmentError | .stateError => (.ret r.st, r.s)

end Sys2Proof.Machine
end

