-- ==== Sys2Proof/Machine/SeqPrimitives.lean ====
section
/-! DEFINITION. The small operations of the sequencer (41_seq_primitives) as single steps, one frame, one clock sample or
one wait each (R6): what the step does, and how the operation goes on, `next` being what comes after `Ok`. -/

namespace Sys2Proof.Machine

/-! ## Frames -/

/-- A frame whose only result is its status: `writeEnable` (R168), `writeDisable` (R169), the two frames of `reset` (R192)
and the latch-consuming commands (R170). -/
def sendFrame (hdr dout : List Byte) (next : Exit) (s : State) : Run :=
  onOk (seqFrame hdr dout 0 s) fun s1 => (next, s1)

/-- The byte of a one-byte receive. -/
def firstByte (rx : List Byte) : Byte := rx.headD 0

/-- `readStatus` (R166): on `Ok` the byte is in `SEQ.SRS`. -/
def readStatus (s : State) : FrameResult :=
  let r := seqFrame [s.cfg.ops.rdsr] [] 1 s
  match r.st with
  | .ok => { r with s := r.s.withCtx { r.s.seq.ctx with srs := firstByte r.rx } }
  | .transportError _ | .protocolViolation | .timeout | .verificationFailure | .alignmentError | .stateError => r

/-- `readConfig` (R167). -/
def readConfig (s : State) : FrameResult := seqFrame [s.cfg.ops.rdcr] [] 1 s

/-- A frame whose bytes go to the host: they are delivered, and on a failure they are the unspecified bytes of the frame
(R26, U1). -/
def deliverFrame (r : FrameResult) : Run := (.ret r.st, r.s.deliver r.rx)

/-- `latchCheck` (R172): only WEL is tested, and after `Ok` comes the command that consumes the latch (R170). -/
def latchCheck (s : State) : Run :=
  onOk (readStatus (s.setPhase .latchCheck)) fun s1 =>
    if byteWel s1.seq.ctx.srs then (.goto .command, s1)
    else (.ret .protocolViolation, (s1.setPhase .reject).setPhase .idle)

/-- `checkCleared` where `CHECK_WEL_CLEARED` (R179). -/
def checkCleared (next : Exit) (s : State) : Run :=
  onOk (readStatus s) fun s1 => if byteWel s1.seq.ctx.srs then (.ret .protocolViolation, s1) else (next, s1)

/-- `read` as a procedure (R193): one frame, whatever the range; the bytes go to the caller. -/
def readRange (addr : Word) (size : Nat) (s : State) : FrameResult :=
  seqFrame (s.cfg.ops.read :: addr24 addr) [] size (s.withCtx { s.seq.ctx with a := addr })

/-- `checkId` (R176): all three bytes must match. -/
def checkId (s : State) : FrameResult :=
  let r := seqFrame [s.cfg.ops.rdid] [] 3 s
  match r.st with
  | .ok => if r.rx = idBytes s.cfg.expectedId then r else { r with st := .verificationFailure }
  | .transportError _ | .protocolViolation | .timeout | .verificationFailure | .alignmentError | .stateError => r

/-! ## Waits (R174, R191) -/

/-- What comes after a pass of a waiting loop that did not succeed: the timeout test, for which the clock is sampled only
where there is a bound, and the wait (R174, R191). -/
def notYet (bound : Nat) : Point := if bound = 0 then .wait else .test

/-- The timeout test (R174, R191, R253): `Now()` is sampled, and the comparison is strict. -/
def timeTest (bound : Nat) (s : State) : Run :=
  let s1 := s.pass
  if bound ≠ 0 ∧ s1.overdue bound = true then (.ret .timeout, s1) else (.goto .wait, s1)

/-- The status read of one iteration of the busy-poll (R174): `ready` is what comes when BUSY = 0. -/
def pollOnce (bound : Nat) (ready : State → Run) (s : State) : Run :=
  onOk (readStatus s) fun s1 => if byteBusy s1.seq.ctx.srs then (.goto (notYet bound), s1) else ready s1

end Sys2Proof.Machine
end

