-- ==== Sys2Proof/Machine/SeqOperations.lean ====
section
/-! DEFINITION. The operations of the sequencer (42_seq_operations) and the meaning of each request of R100 to `SEQ`. An
operation goes from point to point of its pseudocode, one frame, one clock sample or one wait at a step (R6); the request
itself is its acceptance and its first step (log 1). An operation stands only at its own points, the frames of R165. -/

namespace Sys2Proof.Machine

/-! ## The chunk cursor (R23, R200) -/

/-- The cursor after a chunk or slice of `n` bytes (R23). -/
def advanceCursor (n : Nat) (s : State) : State :=
  s.withCtx { s.seq.ctx with
    a := s.seq.ctx.a + BitVec.ofNat 32 n
    off := s.seq.ctx.off + BitVec.ofNat 32 n
    rem := s.seq.ctx.rem - BitVec.ofNat 32 n }

/-- The head of the chunk loop (R200): `SEQ.N` of the next chunk, when bytes are left. -/
def chunkHead (c : Context) : Context :=
  if c.rem = 0 then c else { c with n := BitVec.ofNat 9 (chunkLength c.a c.rem) }

/-- What comes next in a write with `rem` bytes left: another chunk, or the write-disable after all chunks (R200). -/
def chunkPoint (rem : Word) : Point := if rem = 0 then .disable else .enable

/-! ## What comes after each step -/

/-- The bound of an operation's waiting loop (R174, R191, R200, R204). -/
def waitBound (p : Params) : Op → Nat
  | .bringUp _ => p.tInitMs
  | .write _ _ _ => p.tProgMs
  | .eraseSector _ _ => p.tEraseMs
  | .busyPoll timeoutMs => timeoutMs.toNat
  | .reset | .read _ _ _ | .verifySectorErased _ _ | .checkId | .readStatus | .readConfig | .writeEnable | .writeDisable
  | .writeStatus _ _ | .unlockAllBlocks => 0

/-- The first point of an operation's waiting loop: the identifier check of `initialize` (R191), else the busy-poll. -/
def loopHead : Op → Point
  | .bringUp _ => .identify
  | .reset | .read _ _ _ | .write _ _ _ | .eraseSector _ _ | .verifySectorErased _ _ | .busyPoll _ | .checkId | .readStatus
  | .readConfig | .writeEnable | .writeDisable | .writeStatus _ _ | .unlockAllBlocks => .poll

/-- After `reset`: `initialize` goes on to its identifier wait (R191). -/
def afterReset : Op → Exit
  | .bringUp _ => .goto .sample
  | .reset | .read _ _ _ | .write _ _ _ | .eraseSector _ _ | .verifySectorErased _ _ | .busyPoll _ | .checkId | .readStatus
  | .readConfig | .writeEnable | .writeDisable | .writeStatus _ _ | .unlockAllBlocks => .ret .ok

/-- After `writeEnable`: the latch check of the command that consumes the latch, where the operation has one (R170). -/
def afterEnable : Op → Exit
  | .bringUp _ | .write _ _ _ | .eraseSector _ _ | .writeStatus _ _ | .unlockAllBlocks => .goto .latch
  | .reset | .read _ _ _ | .verifySectorErased _ _ | .busyPoll _ | .checkId | .readStatus | .readConfig | .writeEnable
  | .writeDisable => .ret .ok

/-- After `checkCleared`, or in its place: the read-back of a write where `VERIFY_AFTER_WRITE` (R200), else the end. -/
def afterCleared (p : Params) : Op → Exit
  | .write _ _ _ => if p.verifyAfterWrite then .goto .readBack else .ret .ok
  | .bringUp _ | .reset | .read _ _ _ | .eraseSector _ _ | .verifySectorErased _ _ | .busyPoll _ | .checkId | .readStatus
  | .readConfig | .writeEnable | .writeDisable | .writeStatus _ _ | .unlockAllBlocks => .ret .ok

/-- Where an operation calls `checkCleared`: no frame unless `CHECK_WEL_CLEARED` (R179). -/
def toCleared (p : Params) (op : Op) : Exit := if p.checkWelCleared then .goto .cleared else afterCleared p op

/-- After the command that consumes the latch: the completion wait of a program or erase (R200, R204); a register write
completes within its frame, and only the latch is checked (R177, R178). -/
def afterCommand (p : Params) (op : Op) : Exit :=
  match op with
  | .write _ _ _ | .eraseSector _ _ => .goto .sample
  | .bringUp _ | .reset | .read _ _ _ | .verifySectorErased _ _ | .busyPoll _ | .checkId | .readStatus | .readConfig
  | .writeEnable | .writeDisable | .writeStatus _ _ | .unlockAllBlocks => toCleared p op

/-- After `writeDisable`: a write and an erase check that the latch is clear (R200, R204). -/
def afterDisable (p : Params) (op : Op) : Exit :=
  match op with
  | .write _ _ _ | .eraseSector _ _ => toCleared p op
  | .bringUp _ | .reset | .read _ _ _ | .verifySectorErased _ _ | .busyPoll _ | .checkId | .readStatus | .readConfig
  | .writeEnable | .writeDisable | .writeStatus _ _ | .unlockAllBlocks => .ret .ok

/-- After a busy-poll has read BUSY = 0: the next chunk of a write (R200), the write-disable of an erase (R204), or the end
of `busyPoll` (R174). -/
def whenReady (op : Op) (s : State) : Run :=
  match op with
  | .write _ _ _ =>
    let s1 := advanceCursor s.seq.ctx.n.toNat s
    (.goto (chunkPoint s1.seq.ctx.rem), s1.withCtx (chunkHead s1.seq.ctx))
  | .eraseSector _ _ => (.goto .disable, s)
  | .bringUp _ | .reset | .read _ _ _ | .verifySectorErased _ _ | .busyPoll _ | .checkId | .readStatus | .readConfig
  | .writeEnable | .writeDisable | .writeStatus _ _ | .unlockAllBlocks => (.ret .ok, s)

/-! ## The steps that differ from operation to operation -/

/-- Header and data of the command that consumes the latch (R170): the page-program of the current chunk (R173), the
sector-erase (R175), the register write (R178), the unlock (R177). -/
def latchCommand (s : State) : Op → List Byte × List Byte
  | .write _ _ _ =>
    (s.cfg.ops.pp :: addr24 s.seq.ctx.a, slice s.host.inp s.seq.ctx.off.toNat s.seq.ctx.n.toNat)
  | .eraseSector _ _ => (s.cfg.ops.se :: addr24 s.seq.ctx.a, [])
  | .writeStatus status config => ([s.cfg.ops.wrsr], [status, config])
  | .bringUp _ | .unlockAllBlocks | .reset | .read _ _ _ | .verifySectorErased _ _ | .busyPoll _ | .checkId | .readStatus
  | .readConfig | .writeEnable | .writeDisable => ([s.cfg.ops.ulbpr], [])

/-- The frame of the command that consumes the latch. -/
def commandStep (op : Op) (s : State) : Run :=
  sendFrame (latchCommand s op).1 (latchCommand s op).2 (afterCommand s.cfg op) s

/-- One identifier check. Standing alone its status is returned (R176); in `initialize` every failure, a transport error
too, is answered by the timeout test and a wait, and after `Ok` the blocks are unlocked (R191). -/
def identifyStep (op : Op) (s : State) : Run :=
  let r := checkId s
  match op with
  | .bringUp _ =>
    match r.st with
    | .ok => (.goto .enable, r.s)
    | .transportError _ | .protocolViolation | .timeout | .verificationFailure | .alignmentError | .stateError =>
      (.goto (notYet (waitBound s.cfg op)), r.s)
  | .reset | .read _ _ _ | .write _ _ _ | .eraseSector _ _ | .verifySectorErased _ _ | .busyPoll _ | .checkId | .readStatus
  | .readConfig | .writeEnable | .writeDisable | .writeStatus _ _ | .unlockAllBlocks => (.ret r.st, r.s)

/-- The address and the number of bytes an operation names (R193, R202). -/
def opRange : Op → Word × Nat
  | .read _ addr size | .write _ addr size => (addr, size.toNat)
  | .eraseSector _ addr | .verifySectorErased _ addr => (addr, 0)
  | .bringUp _ | .reset | .busyPoll _ | .checkId | .readStatus | .readConfig | .writeEnable | .writeDisable
  | .writeStatus _ _ | .unlockAllBlocks => (0, 0)

/-- The read-back of a write (R202): one read over the whole range, compared as a whole with the host's buffer. -/
def readBackStep (op : Op) (s : State) : Run :=
  let r := readRange (opRange op).1 (opRange op).2 s
  onOk r fun s1 =>
    if r.rx = slice s1.host.inp 0 (opRange op).2 then (.ret .ok, s1) else (.ret .verificationFailure, s1)

/-- One slice of the erase check (R205): it is read whole, and the first byte that is not 0xFF ends the check. -/
def sliceStep (s : State) : Run :=
  let r := readRange s.seq.ctx.a s.cfg.verifySlice s
  onOk r fun s1 =>
    if r.rx.all (fun b => decide (b = erasedByte)) then
      let s2 := advanceCursor s1.cfg.verifySlice s1
      (if s2.seq.ctx.rem = 0 then .ret .ok else .goto .slice, s2)
    else (.ret .verificationFailure, s1)

/-! ## One step of an operation -/

/-- The step an operation takes at a point: one frame, one clock sample or one wait (R6). -/
def atPoint (op : Op) (pt : Point) (s : State) : Run :=
  match pt with
  | .rsten => sendFrame [s.cfg.ops.rsten] [] (.goto .rst) s
  | .rst => sendFrame [s.cfg.ops.rst] [] (afterReset op) s
  | .sample => (.goto (loopHead op), s.sampleT0)
  | .identify => identifyStep op s
  | .enable => sendFrame [s.cfg.ops.wren] [] (afterEnable op) s
  | .latch => latchCheck s
  | .command => commandStep op s
  | .poll => pollOnce (waitBound s.cfg op) (whenReady op) s
  | .test => timeTest (waitBound s.cfg op) s
  | .wait => (.goto (loopHead op), s.waitPoll)
  | .disable => sendFrame [s.cfg.ops.wrdi] [] (afterDisable s.cfg op) s
  | .cleared => checkCleared (afterCleared s.cfg op) s
  | .readBack => readBackStep op s
  | .slice => sliceStep s
  | .transfer => deliverFrame (readRange (opRange op).1 (opRange op).2 s)
  | .status => deliverFrame (readStatus s)
  | .config => deliverFrame (readConfig s)

/-- An operation in progress takes its next step. -/
def resumeOp (t : Task) (s : State) : State := settle t.op (atPoint t.op t.pt s)

/-! ## Acceptance (R164) -/

/-- The point an operation begins at (R165). -/
def opening : Op → Point
  | .bringUp _ | .reset => .rsten
  | .read _ _ _ => .transfer
  | .write _ _ size => chunkPoint size
  | .eraseSector _ _ | .writeEnable | .writeStatus _ _ | .unlockAllBlocks => .enable
  | .verifySectorErased _ _ => .slice
  | .busyPoll _ => .sample
  | .checkId => .identify
  | .readStatus => .status
  | .readConfig => .config
  | .writeDisable => .disable

/-- The context registers an operation writes before its first step (R193, R200, R204, R205). The erase check writes
`SEQ.A` and `SEQ.REM` alone, as in R205: `SEQ.OFF` is advanced by R23 from the undefined value it held (log 35). -/
def openingContext (p : Params) (c : Context) : Op → Context
  | .read _ addr _ | .eraseSector _ addr => { c with a := addr }
  | .write _ addr size => chunkHead { c with a := addr, off := 0, rem := size }
  | .verifySectorErased _ addr => { c with a := addr, rem := BitVec.ofNat 32 p.sectorSize }
  | .bringUp _ | .reset | .busyPoll _ | .checkId | .readStatus | .readConfig | .writeEnable | .writeDisable
  | .writeStatus _ _ | .unlockAllBlocks => c

/-- The alignment test of an erase and of an erase check, before anything else (R204, R205, R263). -/
def rightlyAligned (p : Params) : Op → Bool
  | .eraseSector _ addr | .verifySectorErased _ addr => sectorAligned p addr
  | .bringUp _ | .reset | .read _ _ _ | .write _ _ _ | .busyPoll _ | .checkId | .readStatus | .readConfig | .writeEnable
  | .writeDisable | .writeStatus _ _ | .unlockAllBlocks => true

/-- A request as accepted: `SEQ.OP` is written and the operation takes its first step, or a misaligned one returns without
any (R164, R204, R205). -/
def startOp (op : Op) (s : State) : State :=
  let t : Task := { op := op, pt := opening op }
  if rightlyAligned s.cfg op then resumeOp t (s.begin t (openingContext s.cfg s.seq.ctx op))
  else State.finish op.adapter .alignmentError (s.begin t s.seq.ctx)

/-- A request is accepted only in `Idle` with no operation in progress (R164), by a machine whose parameters meet their
constraints (R7, R281; log 21). -/
def acceptRequest (op : Op) (s : State) : Host.Outcome State Fault Refusal :=
  if s.seq.op.isSome || decide (s.seq.ph ≠ .idle) then .refused .operationInProgress
  else if validParams s.cfg then .next (startOp op s)
  else .refused .badParameters

/-- A write is accepted with a buffer of at least `size` bytes (R26, log 22). -/
def acceptWrite (op : Op) (size : Nat) (buf : List Byte) (s : State) : Host.Outcome State Fault Refusal :=
  if buf.length < size then .refused .bufferTooShort else acceptRequest op (s.lend buf)

/-! ## The requests to `SEQ` (R100) -/

/-- `initialize` (R191). -/
def execReqInitialize (s : State) : Host.Outcome State Fault Refusal := acceptRequest (.bringUp false) s

/-- `reset` (R192). -/
def execReqReset (s : State) : Host.Outcome State Fault Refusal := acceptRequest .reset s

/-- `read` (R193). -/
def execReqRead (addr size : Word) (s : State) : Host.Outcome State Fault Refusal :=
  acceptRequest (.read false addr size) s

/-- `write` (R200). -/
def execReqWrite (addr size : Word) (buf : List Byte) (s : State) : Host.Outcome State Fault Refusal :=
  acceptWrite (.write false addr size) size.toNat buf s

/-- `eraseSector` (R204); the erase count is ignored (R301). -/
def execReqEraseSector (addr _eraseCount : Word) (s : State) : Host.Outcome State Fault Refusal :=
  acceptRequest (.eraseSector false addr) s

/-- `verifySectorErased` (R205). -/
def execReqVerifySectorErased (addr : Word) (s : State) : Host.Outcome State Fault Refusal :=
  acceptRequest (.verifySectorErased false addr) s

/-- `busyPoll` (R174). -/
def execReqBusyPoll (timeoutMs : Word) (s : State) : Host.Outcome State Fault Refusal := acceptRequest (.busyPoll timeoutMs) s

/-- `checkId` (R176). -/
def execReqCheckId (s : State) : Host.Outcome State Fault Refusal := acceptRequest .checkId s

/-- `readStatus` (R166); the byte is delivered to the host (R307). -/
def execReqReadStatus (s : State) : Host.Outcome State Fault Refusal := acceptRequest .readStatus s

/-- `readConfig` (R167); the byte is delivered to the host (R307). -/
def execReqReadConfig (s : State) : Host.Outcome State Fault Refusal := acceptRequest .readConfig s

/-- `writeEnable` (R168). -/
def execReqWriteEnable (s : State) : Host.Outcome State Fault Refusal := acceptRequest .writeEnable s

/-- `writeDisable` (R169). -/
def execReqWriteDisable (s : State) : Host.Outcome State Fault Refusal := acceptRequest .writeDisable s

/-- `writeStatus` (R178). -/
def execReqWriteStatus (status config : Byte) (s : State) : Host.Outcome State Fault Refusal :=
  acceptRequest (.writeStatus status config) s

/-- `unlockAllBlocks` (R177). -/
def execReqUnlockAllBlocks (s : State) : Host.Outcome State Fault Refusal := acceptRequest .unlockAllBlocks s

end Sys2Proof.Machine
end

