-- ==== Sys2Proof/Machine/Adapter.lean ====
section
/-! DEFINITION. The block adapter's requests (43_block_adapter): address and unit translation, the operation of `SEQ` they
delegate to, and the mapping of its status (R230, R236). A product of 2^32 or more is outside the spec (R75, U15). -/

namespace Sys2Proof.Machine

/-- `blockRead` (R231). -/
def execReqBlockRead (blockAddr words : Word) (s : State) : Host.Outcome State Fault Refusal :=
  if fitsWord (wordBytes s.cfg words) then
    acceptRequest (.read true blockAddr (BitVec.ofNat 32 (wordBytes s.cfg words))) s
  else .refused .productTooLarge

/-- `blockWrite` (R232). -/
def execReqBlockWrite (blockAddr words : Word) (src : List Byte) (s : State) : Host.Outcome State Fault Refusal :=
  if fitsWord (wordBytes s.cfg words) then
    acceptWrite (.write true blockAddr (BitVec.ofNat 32 (wordBytes s.cfg words))) (wordBytes s.cfg words) src s
  else .refused .productTooLarge

/-- `blockErase` (R233); the erase count is passed on and ignored. -/
def execReqBlockErase (block _eraseCount : Word) (s : State) : Host.Outcome State Fault Refusal :=
  if fitsWord (blockByteAddr s.cfg block) then
    acceptRequest (.eraseSector true (BitVec.ofNat 32 (blockByteAddr s.cfg block))) s
  else .refused .productTooLarge

/-- `blockEraseVerify` (R234). -/
def execReqBlockEraseVerify (block : Word) (s : State) : Host.Outcome State Fault Refusal :=
  if fitsWord (blockByteAddr s.cfg block) then
    acceptRequest (.verifySectorErased true (BitVec.ofNat 32 (blockByteAddr s.cfg block))) s
  else .refused .productTooLarge

/-- `systemError` (R235): `initialize` once; the engine's code is ignored. -/
def execReqSystemError (_code : Word) (s : State) : Host.Outcome State Fault Refusal := acceptRequest (.bringUp true) s

end Sys2Proof.Machine
end

