-- ==== Sys2Proof/Machine/ChipCommands.lean ====
section
/-! DEFINITION. The meaning of each chip command as an instruction: one frame consumed by the device (40_device_commands
R120 to R145). What the device does with it is the command's own rule in DevControl.lean and DevArray.lean. -/

namespace Sys2Proof.Machine

/-- NOP (R121). -/
def execNop (s : State) : Host.Outcome State Fault Refusal := directFrame .nop s

/-- RSTEN (R122). -/
def execRsten (s : State) : Host.Outcome State Fault Refusal := directFrame .rsten s

/-- RST (R123). -/
def execRst (s : State) : Host.Outcome State Fault Refusal := directFrame .rst s

/-- RDSR (R124). -/
def execRdsr (n : Nat) (s : State) : Host.Outcome State Fault Refusal := directFrame (.rdsr n) s

/-- WRSR (R128). -/
def execWrsr (status config : Byte) (s : State) : Host.Outcome State Fault Refusal := directFrame (.wrsr status config) s

/-- RDCR (R125). -/
def execRdcr (n : Nat) (s : State) : Host.Outcome State Fault Refusal := directFrame (.rdcr n) s

/-- READ (R129). -/
def execRead (a : Addr24) (n : Nat) (s : State) : Host.Outcome State Fault Refusal := directFrame (.read a n) s

/-- HSREAD (R130). -/
def execHsread (a : Addr24) (x : Byte) (n : Nat) (s : State) : Host.Outcome State Fault Refusal := directFrame (.hsread a x n) s

/-- WREN (R126). -/
def execWren (s : State) : Host.Outcome State Fault Refusal := directFrame .wren s

/-- WRDI (R127). -/
def execWrdi (s : State) : Host.Outcome State Fault Refusal := directFrame .wrdi s

/-- SE (R135). -/
def execSe (a : Addr24) (s : State) : Host.Outcome State Fault Refusal := directFrame (.se a) s

/-- BE (R136). -/
def execBe (a : Addr24) (s : State) : Host.Outcome State Fault Refusal := directFrame (.be a) s

/-- CE (R137). -/
def execCe (s : State) : Host.Outcome State Fault Refusal := directFrame .ce s

/-- PP (R134). -/
def execPp (a : Addr24) (d : List Byte) (s : State) : Host.Outcome State Fault Refusal := directFrame (.pp a d) s

/-- RDID (R131). -/
def execRdid (n : Nat) (s : State) : Host.Outcome State Fault Refusal := directFrame (.rdid n) s

/-- SFDP (R132). -/
def execSfdp (a : Addr24) (x : Byte) (n : Nat) (s : State) : Host.Outcome State Fault Refusal := directFrame (.sfdp a x n) s

/-- RBPR (R140). -/
def execRbpr (n : Nat) (s : State) : Host.Outcome State Fault Refusal := directFrame (.rbpr n) s

/-- ULBPR (R141). -/
def execUlbpr (s : State) : Host.Outcome State Fault Refusal := directFrame .ulbpr s

/-- RSID (R133). -/
def execRsid (a : Addr16) (x : Byte) (n : Nat) (s : State) : Host.Outcome State Fault Refusal := directFrame (.rsid a x n) s

/-- DPD (R142). -/
def execDpd (s : State) : Host.Outcome State Fault Refusal := directFrame .dpd s

/-- RDPD (R143). -/
def execRdpd (s : State) : Host.Outcome State Fault Refusal := directFrame .rdpd s

end Sys2Proof.Machine
end

