-- ==== Sys2Proof/Machine/Dispatch.lean ====
section
/-! DEFINITION. One arm per instruction: the 21 chip commands, then the 19 requests of the host. -/

namespace Sys2Proof.Machine

def exec (i : Instr) (s : State) : Host.Outcome State Fault Refusal :=
  match i with
  | .nop => Sys2Proof.Machine.execNop s
  | .rsten => Sys2Proof.Machine.execRsten s
  | .rst => Sys2Proof.Machine.execRst s
  | .rdsr n => Sys2Proof.Machine.execRdsr n s
  | .wrsr status config => Sys2Proof.Machine.execWrsr status config s
  | .rdcr n => Sys2Proof.Machine.execRdcr n s
  | .read a n => Sys2Proof.Machine.execRead a n s
  | .hsread a x n => Sys2Proof.Machine.execHsread a x n s
  | .wren => Sys2Proof.Machine.execWren s
  | .wrdi => Sys2Proof.Machine.execWrdi s
  | .se a => Sys2Proof.Machine.execSe a s
  | .be a => Sys2Proof.Machine.execBe a s
  | .ce => Sys2Proof.Machine.execCe s
  | .pp a d => Sys2Proof.Machine.execPp a d s
  | .rdid n => Sys2Proof.Machine.execRdid n s
  | .sfdp a x n => Sys2Proof.Machine.execSfdp a x n s
  | .rbpr n => Sys2Proof.Machine.execRbpr n s
  | .ulbpr => Sys2Proof.Machine.execUlbpr s
  | .rsid a x n => Sys2Proof.Machine.execRsid a x n s
  | .dpd => Sys2Proof.Machine.execDpd s
  | .rdpd => Sys2Proof.Machine.execRdpd s
  | .reqInitialize => Sys2Proof.Machine.execReqInitialize s
  | .reqReset => Sys2Proof.Machine.execReqReset s
  | .reqRead addr size => Sys2Proof.Machine.execReqRead addr size s
  | .reqWrite addr size buf => Sys2Proof.Machine.execReqWrite addr size buf s
  | .reqEraseSector addr eraseCount => Sys2Proof.Machine.execReqEraseSector addr eraseCount s
  | .reqVerifySectorErased addr => Sys2Proof.Machine.execReqVerifySectorErased addr s
  | .reqBusyPoll timeoutMs => Sys2Proof.Machine.execReqBusyPoll timeoutMs s
  | .reqCheckId => Sys2Proof.Machine.execReqCheckId s
  | .reqReadStatus => Sys2Proof.Machine.execReqReadStatus s
  | .reqReadConfig => Sys2Proof.Machine.execReqReadConfig s
  | .reqWriteEnable => Sys2Proof.Machine.execReqWriteEnable s
  | .reqWriteDisable => Sys2Proof.Machine.execReqWriteDisable s
  | .reqWriteStatus status config => Sys2Proof.Machine.execReqWriteStatus status config s
  | .reqUnlockAllBlocks => Sys2Proof.Machine.execReqUnlockAllBlocks s
  | .reqBlockRead blockAddr words => Sys2Proof.Machine.execReqBlockRead blockAddr words s
  | .reqBlockWrite blockAddr words src => Sys2Proof.Machine.execReqBlockWrite blockAddr words src s
  | .reqBlockErase block eraseCount => Sys2Proof.Machine.execReqBlockErase block eraseCount s
  | .reqBlockEraseVerify block => Sys2Proof.Machine.execReqBlockEraseVerify block s
  | .reqSystemError code => Sys2Proof.Machine.execReqSystemError code s

end Sys2Proof.Machine
end

