-- ==== Sys2Proof/Machine/Fetch.lean ====
section
/-! DEFINITION. What the machine does next (00_scope R6, 41_seq_primitives R164, 70_reset_and_hazards R280, R306, R307): an
operation in progress takes its next step; else the next item the host presents is taken; with nothing presented, time may pass. -/

namespace Sys2Proof.Machine

/-- What comes next: an instruction to run on a state, or a step that is no instruction. -/
inductive Fetched where
  | instr (i : Instr) (s : State)
  | done (o : Host.Outcome State Fault Refusal)

/-- What stands on a port and is no instruction: a malformed frame is ignored by the device (R98, R144, U16); a request
whose code is not in the table of R100 (U11), whose bytes are not its code and operands (log 18), or whose buffer is too
short (R26, log 22) has no meaning. -/
def rejected (w : Wire) (e : DecodeError) (s : State) : Host.Outcome State Fault Refusal :=
  match w with
  | .frame tx nrx => .next (malformedFrame tx nrx s)
  | .request _ =>
    match e with
    | .unknownRequest code => .refused (.unknownRequest code)
    | .bufferTooShort _ => .refused .bufferTooShort
    | .emptyFrame | .unknownOpcode _ | .shortHeader | .surplusBytes | .unexpectedReceive | .badDataLength
    | .emptyRequest | .badOperands _ => .refused .malformedRequest

/-- An item the host presents, already taken from `inbox`. -/
def fetchItem (item : Item) (s : State) : Fetched :=
  match item with
  | .wire w =>
    match decode s.cfg w with
    | .ok i => .instr i s
    | .error e => .done (rejected w e s)
  | .idle => .done (.next s.idle)
  | .geometry => .done (.next s.geometryQuery)
  | .powerOn => .done s.powerOn
  | .seqReset => .done (.next s.seqReset)

/-- The next thing the machine does. -/
def fetch (s : State) : Fetched :=
  match s.seq.op with
  | some t => .done (.next (resumeOp t s))
  | none =>
    match s.inbox with
    | [] => .done (.next s.idle)
    | item :: later => fetchItem item { s with inbox := later }

/-- The state with a word of the opcode table as the next thing the host presents, and no operation in progress (log 19,
log 20). -/
def presentWord (s : State) (nbits w : Nat) : State :=
  { s with seq := { s.seq with op := none }, inbox := .wire (tableWire s.cfg nbits w) :: s.inbox }

end Sys2Proof.Machine
end

