-- ==== Sys2Proof/Safety.lean ====
section
/-! DEFINITION. What claims are stated over: the invariant of the machine, the states in which a request is accepted, the
schedules in which the bus does not fail or the engine is eager, and what it means that a frame leaves the device alone. -/

namespace Sys2Proof.Machine

/-- An in-flight operation stands inside the array; a program has 1 to 256 bytes and stays in one page (R64, R134 to
R137). -/
def pendOk (p : Params) : Pend → Prop
  | .none => True
  | .program a data => 1 ≤ data.length ∧ a % pageSize + data.length ≤ pageSize ∧ a + data.length ≤ p.deviceSize
  | .erase _ hi => hi ≤ p.deviceSize

/-- BUSY is 1 exactly when something is in flight (R32), what is in flight stands inside the array, and the array is in
its canonical form and holds no byte past its end (R42). -/
structure DevOk (p : Params) (d : Dev) : Prop where
  busy_iff : d.busy = true ↔ d.pend ≠ .none
  pend_ok  : pendOk p d.pend
  mem_wf   : Memory.wf d.mem = true
  mem_in   : Memory.below d.mem p.deviceSize = true

/-- The points at which an operation stands: those of its own pseudocode, `checkCleared` and the read-back only where the
parameters have them (R165, R179, R180, R200). -/
def ownPoint (p : Params) (op : Op) (pt : Point) : Bool :=
  match op with
  | .bringUp _ =>
    match pt with
    | .rsten | .rst | .sample | .identify | .test | .wait | .enable | .latch | .command => true
    | .cleared => p.checkWelCleared
    | .poll | .disable | .readBack | .slice | .transfer | .status | .config => false
  | .write _ _ _ =>
    match pt with
    | .enable | .latch | .command | .sample | .poll | .test | .wait | .disable => true
    | .cleared => p.checkWelCleared
    | .readBack => p.verifyAfterWrite
    | .rsten | .rst | .identify | .slice | .transfer | .status | .config => false
  | .eraseSector _ _ =>
    match pt with
    | .enable | .latch | .command | .sample | .poll | .test | .wait | .disable => true
    | .cleared => p.checkWelCleared
    | .rsten | .rst | .identify | .readBack | .slice | .transfer | .status | .config => false
  | .busyPoll _ =>
    match pt with
    | .sample | .poll | .test | .wait => true
    | .rsten | .rst | .identify | .enable | .latch | .command | .disable | .cleared | .readBack | .slice | .transfer
    | .status | .config => false
  | .writeStatus _ _ | .unlockAllBlocks =>
    match pt with
    | .enable | .latch | .command => true
    | .cleared => p.checkWelCleared
    | .rsten | .rst | .sample | .identify | .poll | .test | .wait | .disable | .readBack | .slice | .transfer | .status
    | .config => false
  | .reset => decide (pt = .rsten) || decide (pt = .rst)
  | .read _ _ _ => decide (pt = .transfer)
  | .verifySectorErased _ _ => decide (pt = .slice)
  | .checkId => decide (pt = .identify)
  | .readStatus => decide (pt = .status)
  | .readConfig => decide (pt = .config)
  | .writeEnable => decide (pt = .enable)
  | .writeDisable => decide (pt = .disable)

/-- The points of a write inside a chunk, its frames and its busy-poll (R200). -/
def inChunk : Point → Bool
  | .enable | .latch | .command | .sample | .poll | .test | .wait => true
  | .rsten | .rst | .identify | .disable | .cleared | .readBack | .slice | .transfer | .status | .config => false

/-- The cursor of a write (R23, R200): the bytes already written and those still to transfer make up its size, the host's
buffer holds that many bytes (R26); inside a chunk `SEQ.N` is its length, and every chunk but the first begins a page (R201);
after the last chunk nothing is left. -/
structure WriteCursor (s : State) (pt : Point) (addr size : Word) : Prop where
  buffer : size.toNat ≤ s.host.inp.length
  addr   : s.seq.ctx.a = addr + s.seq.ctx.off
  total  : s.seq.ctx.off.toNat + s.seq.ctx.rem.toNat = size.toNat
  chunk  : inChunk pt = true → 1 ≤ s.seq.ctx.rem.toNat ∧ s.seq.ctx.n.toNat = chunkLength s.seq.ctx.a s.seq.ctx.rem
  page   : inChunk pt = true → s.seq.ctx.off = 0 ∨ s.seq.ctx.a.toNat % pageSize = 0
  rest   : inChunk pt = false → s.seq.ctx.rem = 0

/-- The context registers an operation needs at its point: the cursor of a write, the aligned address of an erase, and the
slices of an erase check that are left (R23, R204, R205). -/
def CursorOk (s : State) (t : Task) : Prop :=
  match t.op with
  | .write _ addr size => WriteCursor s t.pt addr size
  | .eraseSector _ addr => s.seq.ctx.a = addr ∧ sectorAligned s.cfg addr = true
  | .verifySectorErased _ addr =>
    sectorAligned s.cfg addr = true ∧ 1 ≤ s.seq.ctx.rem.toNat ∧ s.seq.ctx.rem.toNat ≤ s.cfg.sectorSize ∧
    s.seq.ctx.rem.toNat % s.cfg.verifySlice = 0 ∧
    s.seq.ctx.a = addr + BitVec.ofNat 32 (s.cfg.sectorSize - s.seq.ctx.rem.toNat)
  | .bringUp _ | .reset | .read _ _ _ | .busyPoll _ | .checkId | .readStatus | .readConfig | .writeEnable | .writeDisable
  | .writeStatus _ _ | .unlockAllBlocks => True

/-- What is in progress stands at one of its own points with a sound cursor. -/
def OpOk (s : State) : Prop := ∀ t, s.seq.op = some t → ownPoint s.cfg t.op t.pt = true ∧ CursorOk s t

/-- The invariant: the parameters meet their constraints (R7), the bus is released and `SEQ.PH` is `Idle` between two
steps (R25), the device is sound, and what is in progress stands at a point of its own with a sound cursor. -/
structure Inv (s : State) : Prop where
  params : validParams s.cfg = true
  idle   : s.seq.ph = .idle
  sel    : s.seq.sel = false
  dev    : DevOk s.cfg s.dev
  op     : OpOk s

/-- A request is accepted (R164, R281). -/
def Ready (s : State) : Prop := s.seq.op = none ∧ s.seq.ph = .idle ∧ validParams s.cfg = true

/-- A slot in which the bus does not fail and the device is there. -/
def Slot.noError (sl : Slot) : Prop := sl.hdrErr = none ∧ sl.dataErr = none ∧ sl.absent = false

/-- The bus never fails and the device takes every frame: every `Tx` and `Rx` returns `BusOk`, and no slot is absent. -/
def BusOk (s : State) : Prop := (∀ sl ∈ s.env, sl.noError) ∧ s.rest.noError

/-- An eager device: a pending program or erase completes before the next frame (95_test_vectors). -/
def Eager (s : State) : Prop := (∀ sl ∈ s.env, sl.complete = true) ∧ s.rest.complete = true

/-- A device that never completes what is in flight. -/
def NeverCompletes (s : State) : Prop := (∀ sl ∈ s.env, sl.complete = false) ∧ s.rest.complete = false

/-- The device listens: not busy, nothing in flight, not in deep power-down. -/
def Listening (d : Dev) : Prop := d.busy = false ∧ d.pend = .none ∧ d.dpd = false

/-- The device may take this frame to its own rule (R120, R138, R142). -/
def Accepts (d : Dev) (i : Instr) : Prop := (d.dpd = false ∨ isRdpd i = true) ∧ (d.busy = false ∨ acceptedBusy i = true)

/-- Every byte of the array reads as before. -/
def SameArray (d e : Dev) : Prop := ∀ a, memRead e.mem a = memRead d.mem a

/-- What a frame put on the bus directly leaves unchanged whatever it does to the device: everything but the device, the
trace and the draw counter. The registers of `SEQ` are written only by `SEQ` (R21); that `SEQ.ST` holds a value at all here is
the model's choice (log 36). -/
def OnlyDevice (s t : State) : Prop :=
  t.cfg = s.cfg ∧ t.seq = s.seq ∧ t.clock = s.clock ∧ t.host = s.host ∧ t.phases = s.phases ∧ t.inbox = s.inbox ∧
  t.env = s.env ∧ t.rest = s.rest

/-- An operation that has returned with a status: idle, deselected, nothing in progress (R306). -/
def Returned (st : Status) (t : State) : Prop :=
  t.seq.op = none ∧ t.seq.ph = .idle ∧ t.seq.sel = false ∧ t.seq.st = st

/-- The chip commands, as opposed to the requests (R13, R100). -/
def isFrame (i : Instr) : Bool :=
  match encode Params.default i with
  | .frame _ _ => true
  | .request _ => false

/-- A frame put on the bus directly completes: the device becomes `d`, the bytes `rx` are returned, the frame is
recorded, and nothing else changes but the draw counter. -/
def FrameGives (i : Instr) (s : State) (d : Dev) (rx : List Byte) : Prop :=
  ∃ t, exec i s = .next t ∧ OnlyDevice s t ∧ t.dev = d ∧
    t.trace = s.trace ++ [{ tx := (encode s.cfg i).sent, rx := rx, err := none }]

/-- The bytes of each frame of the trace, in order. -/
def sentFrames (t : State) : List (List Byte) := t.trace.map (fun r => r.tx)

/-- The device when the next frame of `SEQ` begins: what the schedule's next slot leaves (R70). -/
def devAtFrame (s : State) : Dev := if s.slot.complete then engineComplete s.dev else s.dev

/-- The input buffer that stands on the host's port once a request has been presented (R26, R307). -/
def inputBuffer (i : Instr) (s : State) : List Byte :=
  match i with
  | .reqWrite _ _ buf => buf
  | .reqBlockWrite _ _ src => src
  | _ => s.host.inp

/-- What no request changes beside the device, the clock and its own results: the parameters, what the host has still
to present, the schedule's repeating slot, the geometry answer, and the input buffer handed over with it (R26). -/
def RequestKeeps (i : Instr) (s t : State) : Prop :=
  t.cfg = s.cfg ∧ t.inbox = s.inbox ∧ t.rest = s.rest ∧ t.host.geometry = s.host.geometry ∧ t.host.inp = inputBuffer i s

/-- The steps with which the operation in progress goes on, one frame, one clock sample or one wait each (R6), from a state
to a later one. -/
inductive GoesOn : State → State → Prop where
  | here (s : State) : GoesOn s s
  | next {s u t : State} : s.seq.op ≠ none → step s = .next u → GoesOn u t → GoesOn s t

/-- What a request has given when it has returned in `t`: the status `st`, having sent exactly `frames`; the device is
`d`, the output buffer `out`, the engine code `code`. -/
def Gave (i : Instr) (s t : State) (st : Status) (frames : List (List Byte)) (out : List Byte)
    (code : Option EngineCode) (d : Dev) : Prop :=
  Returned st t ∧ sentFrames t = frames ∧ t.host.out = out ∧ t.host.engine = code ∧ t.dev = d ∧ RequestKeeps i s t

/-- A request completes in its one step. -/
def RequestGivesAtOnce (i : Instr) (s : State) (st : Status) (frames : List (List Byte)) (out : List Byte)
    (code : Option EngineCode) (d : Dev) : Prop :=
  ∃ t, exec i s = .next t ∧ Gave i s t st frames out code d

/-- A request completes: it is accepted and takes its first step, and goes on, a step at a time, until it returns. -/
def RequestGives (i : Instr) (s : State) (st : Status) (frames : List (List Byte)) (out : List Byte)
    (code : Option EngineCode) (d : Dev) : Prop :=
  ∃ u t, exec i s = .next u ∧ GoesOn u t ∧ Gave i s t st frames out code d

/-- The array address of byte `j` of a range the host names: the cursor wraps modulo 2^32, is masked, and is taken
modulo `DEVICE_SIZE` (R23, R61, R97). -/
def targetAddr (p : Params) (addr : Word) (j : Nat) : Nat := ((addr.toNat + j) % 2 ^ 32 % 2 ^ 24) % p.deviceSize

/-- A frame of the trace that consumes the latch (R170). -/
def consumesLatch (o : Opcodes) (r : FrameRec) : Prop :=
  ∃ b, r.tx.head? = some b ∧ (b = o.pp ∨ b = o.se ∨ b = o.ulbpr ∨ b = o.wrsr)

/-- A read-status frame that returned a byte with WEL set (R172). -/
def sawLatch (o : Opcodes) (r : FrameRec) : Prop :=
  r.tx = [o.rdsr] ∧ r.err = none ∧ ∃ b, r.rx = [b] ∧ byteWel b = true

/-- Every frame of the trace that consumes the latch comes right after a read-status frame that saw it set (R170), and
where such a frame is the next step, the last frame is that read-status. -/
structure LatchGuarded (t : State) : Prop where
  past : ∀ before r after, t.trace = before ++ r :: after → consumesLatch t.cfg.ops r →
    ∃ earlier q, before = earlier ++ [q] ∧ sawLatch t.cfg.ops q
  next : ∀ op, t.seq.op = some { op := op, pt := .command } →
    ∃ earlier q, t.trace = earlier ++ [q] ∧ sawLatch t.cfg.ops q

/-- A page-program frame of the trace that was sent whole has 1 to 256 data bytes and stays in one page (R64). -/
def programInPage (o : Opcodes) (r : FrameRec) : Prop :=
  r.err = none → ∀ x y z data, r.tx = o.pp :: x :: y :: z :: data →
    1 ≤ data.length ∧ (join24 x y z).toNat % pageSize + data.length ≤ pageSize

/-- The operations whose column `ProtocolViolation` of R206 says yes: those that check the latch. -/
def checksLatch : Instr → Bool
  | .reqInitialize | .reqSystemError _ | .reqUnlockAllBlocks | .reqWriteStatus _ _ | .reqWrite _ _ _
  | .reqBlockWrite _ _ _ | .reqEraseSector _ _ | .reqBlockErase _ _ => true
  | _ => false

/-- The operations whose column `Timeout` of R206 says yes: those with a bounded wait. -/
def hasBoundedWait : Instr → Bool
  | .reqInitialize | .reqSystemError _ | .reqBusyPoll _ | .reqWrite _ _ _ | .reqBlockWrite _ _ _
  | .reqEraseSector _ _ | .reqBlockErase _ _ => true
  | _ => false

/-- The operations whose column `VerificationFailure` of R206 says yes. -/
def comparesBytes (p : Params) : Instr → Bool
  | .reqCheckId | .reqVerifySectorErased _ | .reqBlockEraseVerify _ => true
  | .reqWrite _ _ _ | .reqBlockWrite _ _ _ => p.verifyAfterWrite
  | _ => false

/-- The operations whose column `AlignmentError` of R206 says yes. -/
def checksAlignment : Instr → Bool
  | .reqEraseSector _ _ | .reqBlockErase _ _ | .reqVerifySectorErased _ | .reqBlockEraseVerify _ => true
  | _ => false

/-- The statuses an operation can return, by the table of R206; an adapter operation has those of the operation it
delegates to (R230). -/
def mayReturn (p : Params) (i : Instr) (st : Status) : Bool :=
  match st with
  | .ok | .transportError _ => true
  | .protocolViolation => checksLatch i
  | .timeout => hasBoundedWait i
  | .verificationFailure => comparesBytes p i
  | .alignmentError => checksAlignment i
  | .stateError => false

/-! ### Frames -/

/-- A frame that the device ignores (R120): only `DEV.ARM` changes, and what is returned has the length asked for. -/
def FrameIgnored (i : Instr) (s : State) : Prop :=
  ∃ rx, rx.length = received i ∧ FrameGives i s { s.dev with arm := isRsten i } rx

/-- The read commands (R68). -/
def isReadCommand : Instr → Bool
  | .rdsr _ | .rdcr _ | .read _ _ | .hsread _ _ _ | .rdid _ | .sfdp _ _ _ | .rbpr _ | .rsid _ _ _ => true
  | .nop | .rsten | .rst | .wrsr _ _ | .wren | .wrdi | .se _ | .be _ | .ce | .pp _ _ | .ulbpr | .dpd | .rdpd
  | .reqInitialize | .reqReset | .reqRead _ _ | .reqWrite _ _ _ | .reqEraseSector _ _ | .reqVerifySectorErased _
  | .reqBusyPoll _ | .reqCheckId | .reqReadStatus | .reqReadConfig | .reqWriteEnable | .reqWriteDisable
  | .reqWriteStatus _ _ | .reqUnlockAllBlocks | .reqBlockRead _ _ | .reqBlockWrite _ _ _ | .reqBlockErase _ _
  | .reqBlockEraseVerify _ | .reqSystemError _ => false

/-- The addresses an in-flight operation writes (R37, R46). -/
def pendTarget : Pend → Nat → Prop
  | .none, _ => False
  | .program a data, x => a ≤ x ∧ x < a + data.length
  | .erase lo hi, x => lo ≤ x ∧ x < hi

/-- No address of `[lo, hi)` is protected. -/
def Unprotected (d : Dev) (lo hi : Nat) : Prop := ∀ x, lo ≤ x → x < hi → protAt d.prot x = false

/-- What a page-program or an erase aimed at `[lo, hi)` does (R134 to R139): it starts `op` when the latch is set and
nothing in the range is protected; it is ignored when something in the range is protected, WEL then being unspecified
(U8), when the latch is not set, and when the device takes no frame of its kind. `DEV.AC` is not stated (R44). -/
structure StartsOrIgnored (i : Instr) (s : State) (lo hi : Nat) (op : Pend) : Prop where
  starts    : Accepts s.dev i → s.dev.wel = true → Unprotected s.dev lo hi →
    ∃ c, FrameGives i s { s.dev with arm := false, pend := op, busy := true, ac := c } []
  protects  : Accepts s.dev i → s.dev.wel = true → ¬ Unprotected s.dev lo hi →
    ∃ w, FrameGives i s { s.dev with arm := false, wel := w } []
  unlatched : Accepts s.dev i → s.dev.wel = false → FrameGives i s { s.dev with arm := false } []
  refuses   : ¬ Accepts s.dev i → FrameIgnored i s

/-! ### Requests -/

/-- The engine code of a request that returns `st`: none unless it came through `ADAPTER` (R236). -/
def codeOf (adapter : Bool) (st : Status) : Option EngineCode := if adapter then some (engineCode st) else none

/-- The operands of a request that reads the array: through `ADAPTER` or not, address, number of bytes (R193, R231). -/
def readOperands (p : Params) : Instr → Option (Bool × Word × Nat)
  | .reqRead addr size => some (false, addr, size.toNat)
  | .reqBlockRead addr words => if words.toNat * p.wordSize < 2 ^ 32 then some (true, addr, words.toNat * p.wordSize) else none
  | _ => none

/-- The operands of a request that writes the array: through `ADAPTER` or not, address, number of bytes, buffer; the
buffer holds at least that many (R26, R200, R232). -/
def writeOperands (p : Params) : Instr → Option (Bool × Word × Nat × List Byte)
  | .reqWrite addr size buf => if size.toNat ≤ buf.length then some (false, addr, size.toNat, buf) else none
  | .reqBlockWrite addr words src =>
    if words.toNat * p.wordSize < 2 ^ 32 ∧ words.toNat * p.wordSize ≤ src.length then
      some (true, addr, words.toNat * p.wordSize, src)
    else none
  | _ => none

/-- The operands of a request that erases a sector: through `ADAPTER` or not, byte address (R204, R233). -/
def eraseOperands (p : Params) : Instr → Option (Bool × Word)
  | .reqEraseSector addr _ => some (false, addr)
  | .reqBlockErase block _ =>
    if block.toNat * p.wordsPerBlock * p.wordSize < 2 ^ 32 then
      some (true, BitVec.ofNat 32 (block.toNat * p.wordsPerBlock * p.wordSize))
    else none
  | _ => none

/-- The operands of a request that checks a sector for being erased (R205, R234). -/
def verifyOperands (p : Params) : Instr → Option (Bool × Word)
  | .reqVerifySectorErased addr => some (false, addr)
  | .reqBlockEraseVerify block =>
    if block.toNat * p.wordsPerBlock * p.wordSize < 2 ^ 32 then
      some (true, BitVec.ofNat 32 (block.toNat * p.wordsPerBlock * p.wordSize))
    else none
  | _ => none

/-- The requests that bring the device up (R191, R235), and whether through `ADAPTER`. -/
def bringUp : Instr → Option Bool
  | .reqInitialize => some false
  | .reqSystemError _ => some true
  | _ => none

/-- The first byte of the sector that a byte address names, in the array (R61, R97). -/
def sectorOf (p : Params) (addr : Word) : Nat := addr.toNat % 2 ^ 24 % p.deviceSize

/-- The frame with which `CHECK_WEL_CLEARED` ends an operation (R179). -/
def clearedFrame (p : Params) : List (List Byte) := if p.checkWelCleared then [[p.ops.rdsr]] else []

/-- The page-program frames of the trace, in order. -/
def programFrames (o : Opcodes) (t : State) : List (List Byte) :=
  (sentFrames t).filter (fun f => decide (f.head? = some o.pp))

/-- The page-program frames of a write: consecutive pieces of at least one byte, each as long as its page and the data
left allow, each at the masked cursor, that carry the data exactly (R97, R200, R201). -/
def Tiles (op : Byte) : Word → List Byte → List (List Byte) → Prop
  | _, data, [] => data = []
  | a, data, f :: fs =>
    ∃ n, 1 ≤ n ∧ n = min data.length (pageSize - a.toNat % pageSize) ∧ f = op :: (addr24 a ++ data.take n) ∧
      Tiles op (a + BitVec.ofNat 32 n) (data.drop n) fs

/-- The points of a write at which the current chunk has been sent and is waited for (R200). -/
def chunkSent : Point → Bool
  | .sample | .poll | .test | .wait => true
  | .rsten | .rst | .identify | .enable | .latch | .command | .disable | .cleared | .readBack | .slice | .transfer | .status
  | .config => false

/-- The page-program frames of a write of `n` bytes of the host's buffer at `addr`: when it has returned `Ok` they tile the
range, and their number is that of R76; while it is in progress they tile the bytes up to its cursor, the current chunk
counted once it has been sent. -/
structure Tiled (addr : Word) (n : Nat) (t : State) : Prop where
  whole : t.seq.op = none → t.seq.st = .ok →
    Tiles t.cfg.ops.pp addr (t.host.inp.take n) (programFrames t.cfg.ops t) ∧
    (1 ≤ n → (programFrames t.cfg.ops t).length = (addr.toNat % 256 + n + 255) / 256)
  part  : ∀ task, t.seq.op = some task →
    Tiles t.cfg.ops.pp addr
      (t.host.inp.take (t.seq.ctx.off.toNat + if chunkSent task.pt then t.seq.ctx.n.toNat else 0))
      (programFrames t.cfg.ops t)

/-- The requests whose first step is a frame, in the states where they are accepted: all but the busy-poll, which first
samples the clock, and the misaligned, the too large and the short of a buffer, which send none (R165). -/
def opensWithFrame (p : Params) (i : Instr) : Bool :=
  match i with
  | .reqInitialize | .reqReset | .reqRead _ _ | .reqCheckId | .reqReadStatus | .reqReadConfig | .reqWriteEnable
  | .reqWriteDisable | .reqWriteStatus _ _ | .reqUnlockAllBlocks | .reqSystemError _ => true
  | .reqBlockRead _ _ => (readOperands p i).isSome
  | .reqWrite _ _ _ | .reqBlockWrite _ _ _ => (writeOperands p i).isSome
  | .reqEraseSector _ _ | .reqBlockErase _ _ => (eraseOperands p i).any (fun o => sectorAligned p o.2)
  | .reqVerifySectorErased _ | .reqBlockEraseVerify _ => (verifyOperands p i).any (fun o => sectorAligned p o.2)
  | .reqBusyPoll _
  | .nop | .rsten | .rst | .rdsr _ | .wrsr _ _ | .rdcr _ | .read _ _ | .hsread _ _ _ | .wren | .wrdi | .se _ | .be _
  | .ce | .pp _ _ | .rdid _ | .sfdp _ _ _ | .rbpr _ | .ulbpr | .rsid _ _ _ | .dpd | .rdpd => false

/-- The requests whose first step is a frame with a data phase (R163, R165). -/
def opensWithData (p : Params) (i : Instr) : Bool :=
  match i with
  | .reqCheckId | .reqReadStatus | .reqReadConfig | .reqVerifySectorErased _ | .reqBlockEraseVerify _ => true
  | .reqRead _ _ | .reqBlockRead _ _ => (readOperands p i).any (fun o => decide (o.2.2 ≠ 0))
  | .reqInitialize | .reqReset | .reqWriteEnable | .reqWriteDisable | .reqWriteStatus _ _ | .reqUnlockAllBlocks
  | .reqSystemError _ | .reqWrite _ _ _ | .reqBlockWrite _ _ _ | .reqEraseSector _ _ | .reqBlockErase _ _ | .reqBusyPoll _
  | .nop | .rsten | .rst | .rdsr _ | .wrsr _ _ | .rdcr _ | .read _ _ | .hsread _ _ _ | .wren | .wrdi | .se _ | .be _
  | .ce | .pp _ _ | .rdid _ | .sfdp _ _ _ | .rbpr _ | .ulbpr | .rsid _ _ _ | .dpd | .rdpd => false

/-- The transport error with which the first frame of a request fails, by the schedule's next slot: that of the header
call, or of the data call where the frame has a data phase (R163). -/
def firstFrameError (p : Params) (i : Instr) (sl : Slot) : Option BusError :=
  match sl.hdrErr with
  | some e => some e
  | none => if opensWithData p i then sl.dataErr else none

/-- The request that an operation in progress goes back to, for its table of statuses (R206). -/
def requestOf : Op → Instr
  | .bringUp _ => .reqInitialize
  | .reset => .reqReset
  | .read _ addr size => .reqRead addr size
  | .write _ addr size => .reqWrite addr size []
  | .eraseSector _ addr => .reqEraseSector addr 0
  | .verifySectorErased _ addr => .reqVerifySectorErased addr
  | .busyPoll t => .reqBusyPoll t
  | .checkId => .reqCheckId
  | .readStatus => .reqReadStatus
  | .readConfig => .reqReadConfig
  | .writeEnable => .reqWriteEnable
  | .writeDisable => .reqWriteDisable
  | .writeStatus st cf => .reqWriteStatus st cf
  | .unlockAllBlocks => .reqUnlockAllBlocks

/-- The bound of the wait of an operation that waits (R174, R191, R200, R204). -/
def HasBound (p : Params) (op : Op) (bound : Nat) : Prop :=
  (∃ b : Word, op = .busyPoll b ∧ bound = b.toNat) ∨ (∃ a, op = .bringUp a ∧ bound = p.tInitMs) ∨
    (∃ a addr n, op = .write a addr n ∧ bound = p.tProgMs) ∨ ∃ a addr, op = .eraseSector a addr ∧ bound = p.tEraseMs

/-- The points whose step is no frame: the two clock samples and the wait (R6). -/
def sendsNothing : Point → Bool
  | .sample | .test | .wait => true
  | .rsten | .rst | .identify | .enable | .latch | .command | .poll | .disable | .cleared | .readBack | .slice | .transfer
  | .status | .config => false

/-- `Select()` and `Deselect()` calls match so far (R160). -/
def Bracketed (t : State) : Prop := t.phases.count .selected = t.phases.count .deselected

end Sys2Proof.Machine
end

