-- ==== Sys2Proof/Certificates/Slice0/Obligations.lean ====
section
/-! DEFINITION. The statements about this machine, each from the numbered rules of the spec. A statement that rests on a
convention of the model names its log entry. -/

open Sys2Proof Sys2Proof.Machine

/-! ## Encodings -/

/-- Decoding what an instruction puts on its port gives the instruction back, for every instruction that has an encoding
and every choice of pairwise distinct opcodes (R91, R92, R94, R100; the byte order of a request's operands is the
model's, log 17). -/
def Obligations.DecodeOfEncodeIsIdentity : Prop :=
  ∀ (p : Params) (i : Instr), p.ops.distinct = true → i.wf p = true → decode p (encode p i) = .ok i

/-- What decodes to an instruction is exactly what that instruction puts on its port, and the instruction has an
encoding: no bit is dropped, and no second frame or request means the same (R90 to R93, R100; log 17, log 18). -/
def Obligations.EncodeOfDecodeIsIdentity : Prop :=
  ∀ (p : Params) (w : Wire) (i : Instr), decode p w = .ok i → i.wf p = true ∧ encode p i = w

/-- Frames and requests written out in the spec decode to the instructions they stand for (R91, R94, R97, R100). -/
def Obligations.SpecExamplesDecode : Prop :=
  decode Params.default (.frame [0x03, 0x00, 0xAB, 0xCD] 4) = .ok (.read 0x00ABCD 4) ∧
  decode Params.default (.frame [0x0B, 0x00, 0xAB, 0xCD, 0x00] 4) = .ok (.hsread 0x00ABCD 0x00 4) ∧
  decode Params.default (.frame [0x02, 0x00, 0x10, 0xFE, 0x11, 0x22] 0) = .ok (.pp 0x0010FE [0x11, 0x22]) ∧
  decode Params.default (.frame [0x20, 0x00, 0x50, 0x00] 0) = .ok (.se 0x005000) ∧
  decode Params.default (.frame [0x01, 0x00, 0x08] 0) = .ok (.wrsr 0x00 0x08) ∧
  decode Params.default (.frame [0x05] 1) = .ok (.rdsr 1) ∧
  decode Params.default (.frame [0x9F] 3) = .ok (.rdid 3) ∧
  decode Params.default (.frame [0x66] 0) = .ok .rsten ∧
  decode Params.default (.request [0x07]) = .ok .reqCheckId ∧
  decode Params.default (.request [0x0C, 0x00, 0x08]) = .ok (.reqWriteStatus 0x00 0x08)

/-- The header bytes of a cursor are its bits 23:16, 15:8 and 7:0, in that order; bits 31:24 are dropped; the cursor
itself keeps them as it moves on (R97). -/
def Obligations.AddressAssemblyIsMaskedBigEndian : Prop :=
  (∀ a : Word, addr24 a = [a.extractLsb' 16 8, a.extractLsb' 8 8, a.extractLsb' 0 8]) ∧
  addr24 0x01234567 = [0x23, 0x45, 0x67] ∧
  ∀ (n : Nat) (s : State), (advanceCursor n s).seq.ctx.a = s.seq.ctx.a + BitVec.ofNat 32 n

/-- A frame that no instruction has (an unknown opcode, a short header, surplus bytes, a data phase where the format has
none, a data length outside the format's range) is ignored by the device, whatever its first byte: nothing changes but
`DEV.ARM`, which is cleared, and the bytes returned are free (R98, R144, ruling D27). A page-program frame of more than 256
data bytes is taken as such a frame, by R144, where the row U3 lets a model refuse it (the model's choice, log 14). -/
def Obligations.MalformedFrameIsIgnored : Prop :=
  ∀ (s : State) (tx : List Byte) (nrx : Nat) (later : List Item),
    s.seq.op = none → s.inbox = .wire (.frame tx nrx) :: later →
    (∀ i : Instr, i.wf s.cfg = true → encode s.cfg i ≠ .frame tx nrx) →
    ∃ t rx, step s = .next t ∧ rx.length = nrx ∧ OnlyDevice { s with inbox := later } t ∧
      t.dev = { s.dev with arm := false } ∧ t.trace = s.trace ++ [{ tx := tx, rx := rx, err := none }]

/-! ## Steps of the whole machine -/

/-- With no operation in progress, when what the host presents next decodes to an instruction, a step is that
instruction, run on the state from which the item has been taken; with an operation in progress, a step is the step of that
operation at its point (R6, R164; the inbox and the points are the model's, log 20, log 30). -/
def Obligations.StepRunsDecodedInstruction : Prop :=
  (∀ (s : State) (w : Wire) (later : List Item) (i : Instr), s.seq.op = none → s.inbox = .wire w :: later →
    decode s.cfg w = .ok i → step s = exec i { s with inbox := later }) ∧
  (∀ (s : State) (task : Task), s.seq.op = some task → step s = .next (resumeOp task s))

/-- With nothing presented and nothing in progress the sequencer does nothing: only time, and the device's own engine,
may move (R280, R70). That `SEQ.ST` still holds the last status is the model's choice (log 36). -/
def Obligations.IdleMachineDoesNothing : Prop :=
  ∀ s : State, s.seq.op = none → s.inbox = [] →
    ∃ t, step s = .next t ∧ t.seq = s.seq ∧ t.host = s.host ∧ t.trace = s.trace ∧ t.phases = s.phases ∧
      t.inbox = [] ∧ t.cfg = s.cfg ∧ t.dev = devAtFrame s

/-- Every step keeps the invariant: the parameters meet their constraints, the bus is released and `SEQ.PH` is `Idle`
between steps (R25), BUSY is 1 exactly when something is in flight (R32), what is in flight stands inside the array and a
program inside one page (R64), the array is canonical, and what is in progress stands at a point of its own pseudocode with
a sound cursor (R23, R165). -/
def Obligations.StepKeepsInvariant : Prop :=
  ∀ s t : State, Inv s → step s = .next t → Inv t

/-- The state after reset meets the invariant. -/
def Obligations.ResetMeetsInvariant : Prop := Inv State.reset

/-- No step changes the parameters, `SR_AUX`, the identifier or the read-only byte spaces (R34, R41, R43, R281), and the
clock never goes back (R268). -/
def Obligations.ParametersStayAndClockRises : Prop :=
  ∀ s t : State, step s = .next t →
    t.cfg = s.cfg ∧ t.dev.aux = s.dev.aux ∧ t.dev.id = s.dev.id ∧ t.dev.sfdp = s.dev.sfdp ∧ t.dev.sid = s.dev.sid ∧
    s.clock ≤ t.clock

/-- One step of an operation in progress is one frame, one clock sample, or one wait of the poll interval, and takes one
slot of the schedule: a frame adds one record to the trace, a sample and a wait none; a wait adds the poll interval to the
clock. The step of a request sends at most one frame (R6, ruling D1). -/
def Obligations.StepIsOneFrameSampleOrWait : Prop :=
  (∀ (s t : State) (task : Task), s.seq.op = some task → step s = .next t →
    t.env = s.env.tail ∧
    (sendsNothing task.pt = false → t.clock = s.clock + s.slot.tick ∧ ∃ r, t.trace = s.trace ++ [r]) ∧
    (sendsNothing task.pt = true → t.trace = s.trace ∧ t.phases = s.phases) ∧
    (task.pt = .sample ∨ task.pt = .test → t.clock = s.clock + s.slot.tick) ∧
    (task.pt = .wait → t.clock = s.clock + s.slot.tick + s.cfg.pollIntervalMs)) ∧
  (∀ (s t : State) (i : Instr), isFrame i = false → exec i s = .next t → t.trace.length ≤ 1)

/-- The values R45 and R47 give: the sequencer idle, deselected, with no operation in progress; the device not busy,
latch clear, nothing in flight, not armed, not in deep power-down, every address protected as `PROT_AFTER_RESET` says. -/
def Obligations.ResetLeavesStatedValues : Prop :=
  State.reset.seq.op = none ∧ State.reset.seq.ph = .idle ∧ State.reset.seq.sel = false ∧
  State.reset.dev.busy = false ∧ State.reset.dev.wel = false ∧ State.reset.dev.pend = .none ∧
  State.reset.dev.arm = false ∧ State.reset.dev.dpd = false ∧
  ∀ a, a < State.reset.cfg.deviceSize → protAt State.reset.dev.prot a = State.reset.cfg.protAfterReset

/-- While the bus does not fail, a busy device holds its latch: whenever BUSY = 1, WEL = 1 (R32). -/
def Obligations.BusyDeviceHoldsLatch : Prop :=
  ∀ s t : State, BusOk s → (s.dev.busy = true → s.dev.wel = true) → step s = .next t →
    BusOk t ∧ (t.dev.busy = true → t.dev.wel = true)

/-- What else a host can do between operations: power the device on when nothing is in flight (R45), reset the
sequencer (R47), ask for the geometry (R237). The inbox is the model's (log 20, log 26). -/
def Obligations.HostEventsActAsStated : Prop :=
  (∀ (s : State) (later : List Item), s.seq.op = none → s.inbox = .powerOn :: later → s.dev.pend = .none →
    ∃ t, step s = .next t ∧ OnlyDevice { s with inbox := later } t ∧ t.trace = s.trace ∧
      t.dev = { s.dev with
        busy := false, wel := false, arm := false, dpd := false, prot := t.dev.prot, cr := t.dev.cr } ∧
      ∀ a, a < s.cfg.deviceSize → protAt t.dev.prot a = s.cfg.protAfterReset) ∧
  (∀ (s : State) (later : List Item), s.seq.op = none → s.inbox = .seqReset :: later →
    ∃ t, step s = .next t ∧ t.seq.ph = .idle ∧ t.seq.sel = false ∧ t.seq.op = none ∧ t.dev = s.dev ∧
      t.trace = s.trace ∧ t.cfg = s.cfg ∧ t.clock = s.clock ∧ t.host = s.host ∧ t.inbox = later) ∧
  (∀ (s : State) (later : List Item), s.seq.op = none → s.inbox = .geometry :: later →
    step s = .next { s with
      inbox := later, host := { s.host with geometry := some (s.cfg.totalBlocks, s.cfg.wordsPerBlock) } })

/-! ## Chip commands: the device's side -/

/-- NOP does nothing but disarm, whatever the device is doing (R121). -/
def Obligations.NopOnlyDisarms : Prop :=
  ∀ s : State, FrameGives .nop s { s.dev with arm := false } []

/-- RSTEN arms the device and changes nothing else, whatever the device is doing: while BUSY = 1 too, and in deep
power-down, where the frame is ignored after `DEV.ARM` is set (R120, R122). -/
def Obligations.ResetEnableArms : Prop :=
  ∀ s : State, FrameGives .rsten s { s.dev with arm := true } []

/-- RST after RSTEN resets the device: BUSY, WEL, `DEV.ARM` and what is in flight are cleared, protection becomes
`PROT_AFTER_RESET`, `DEV.CR` is unspecified, and of the array only the target of an aborted operation may change; it acts
on a busy device too. RST without RSTEN just before it, or in deep power-down, changes nothing but `DEV.ARM` (R46, R123). -/
def Obligations.ResetFrameResetsWhenArmed : Prop :=
  ∀ s : State, Memory.wf s.dev.mem = true →
    (s.dev.dpd = false → s.dev.arm = true →
      ∃ c m pr,
        FrameGives .rst s
          { s.dev with
            busy := false, wel := false, arm := false, dpd := false, pend := .none, prot := pr, cr := c, mem := m } [] ∧
        (∀ x, x < s.cfg.deviceSize → protAt pr x = s.cfg.protAfterReset) ∧
        (∀ x, ¬ pendTarget s.dev.pend x → memRead m x = memRead s.dev.mem x)) ∧
    (s.dev.dpd = true ∨ s.dev.arm = false → FrameGives .rst s { s.dev with arm := false } [])

/-- RDSR returns samples of one status byte: bit 0 is BUSY, bit 1 WEL, bits 5:2 `SR_AUX`, bits 7:6 free; a busy device
answers, one in deep power-down does not (R31, R124). -/
def Obligations.ReadStatusFrameReturnsStatus : Prop :=
  ∀ (s : State) (n : Nat),
    (s.dev.dpd = false →
      ∃ b : Byte, FrameGives (.rdsr n) s { s.dev with arm := false } (List.replicate n b) ∧
        b.getLsbD 0 = s.dev.busy ∧ b.getLsbD 1 = s.dev.wel ∧ b.extractLsb' 2 4 = s.dev.aux) ∧
    (s.dev.dpd = true → FrameIgnored (.rdsr n) s)

/-- RDCR returns `DEV.CR` in its first byte, from a busy device too, but not in deep power-down (R125). Bytes past the first
are not stated: no rule gives them (log 16). -/
def Obligations.ReadConfigFrameReturnsRegister : Prop :=
  ∀ (s : State) (n : Nat),
    (s.dev.dpd = false → ∃ rx, FrameGives (.rdcr n) s { s.dev with arm := false } rx ∧ rx.length = n ∧
      (0 < n → rx[0]? = some s.dev.cr)) ∧
    (s.dev.dpd = true → FrameIgnored (.rdcr n) s)

/-- WRSR with the latch set writes its second byte to `DEV.CR`, discards the first and clears WEL, without becoming busy;
without the latch, or on a device that is busy or in deep power-down, it is ignored (R128). -/
def Obligations.WriteStatusFrameWritesConfig : Prop :=
  ∀ (s : State) (st cf : Byte),
    (s.dev.busy = false → s.dev.dpd = false → s.dev.wel = true →
      FrameGives (.wrsr st cf) s { s.dev with arm := false, cr := cf, wel := false } []) ∧
    (s.dev.busy = true ∨ s.dev.dpd = true ∨ s.dev.wel = false →
      FrameGives (.wrsr st cf) s { s.dev with arm := false } [])

/-- WREN sets WEL and WRDI clears it, on a device that is neither busy nor in deep power-down; otherwise both are
ignored (R126, R127). -/
def Obligations.LatchFramesWriteLatch : Prop :=
  ∀ s : State,
    (s.dev.busy = false → s.dev.dpd = false →
      FrameGives .wren s { s.dev with arm := false, wel := true } [] ∧
      FrameGives .wrdi s { s.dev with arm := false, wel := false } []) ∧
    (s.dev.busy = true ∨ s.dev.dpd = true →
      FrameGives .wren s { s.dev with arm := false } [] ∧ FrameGives .wrdi s { s.dev with arm := false } [])

/-- READ and HSREAD return the array bytes from the address on, the address wrapping at the end of the device, any number
of them, none included; a device that is busy or in deep power-down ignores both. `DEV.AC` is not stated (R44, R129,
R130). -/
def Obligations.ReadFramesReturnArray : Prop :=
  ∀ (s : State) (i : Instr) (a : Addr24) (x : Byte) (n : Nat), (i = .read a n ∨ i = .hsread a x n) →
    (s.dev.busy = false → s.dev.dpd = false →
      ∃ c rx, FrameGives i s { s.dev with arm := false, ac := c } rx ∧ rx.length = n ∧
        ∀ j, j < n → rx[j]? = some (memRead s.dev.mem ((a.toNat + j) % s.cfg.deviceSize))) ∧
    (s.dev.busy = true ∨ s.dev.dpd = true → FrameIgnored i s)

/-- RDID returns vendor, device and capacity, in this order; bytes after the third are free; a device that is busy or in
deep power-down ignores it (R41, R62, R131). -/
def Obligations.ReadIdFrameReturnsIdentifier : Prop :=
  ∀ (s : State) (n : Nat),
    (s.dev.busy = false → s.dev.dpd = false →
      ∃ rx, FrameGives (.rdid n) s { s.dev with arm := false } rx ∧ rx.length = n ∧
        (0 < n → rx[0]? = some s.dev.id.vendor) ∧ (1 < n → rx[1]? = some s.dev.id.device) ∧
        (2 < n → rx[2]? = some s.dev.id.capacity)) ∧
    (s.dev.busy = true ∨ s.dev.dpd = true → FrameIgnored (.rdid n) s)

/-- SFDP and RSID return the bytes of their read-only spaces from the address on; past the listed bytes one constant of
the implementation stands for the space (R43, R132, R133; log 10). -/
def Obligations.ReadOnlySpacesReturnTheirBytes : Prop :=
  ∃ f g : Nat → Byte, ∀ (s : State) (a : Addr24) (b : Addr16) (x : Byte) (n : Nat),
    s.dev.busy = false → s.dev.dpd = false →
    (∃ rx, FrameGives (.sfdp a x n) s { s.dev with arm := false } rx ∧ rx.length = n ∧
      ∀ j, j < n → rx[j]? = some ((s.dev.sfdp[a.toNat + j]?).getD (f (a.toNat + j)))) ∧
    (∃ rx, FrameGives (.rsid b x n) s { s.dev with arm := false } rx ∧ rx.length = n ∧
      ∀ j, j < n → rx[j]? = some ((s.dev.sid[b.toNat + j]?).getD (g (b.toNat + j))))

/-- RBPR returns bytes that are all zero exactly when no address is protected (R140; that it answers is the model's
choice among those R140 allows, log 12). -/
def Obligations.ReadProtectionIsZeroIffUnprotected : Prop :=
  ∀ (s : State) (n : Nat), 1 ≤ n → s.dev.busy = false → s.dev.dpd = false →
    ∃ rx, FrameGives (.rbpr n) s { s.dev with arm := false } rx ∧ rx.length = n ∧
      ((∀ b ∈ rx, b = 0) ↔ Unprotected s.dev 0 s.cfg.deviceSize)

/-- PP with the latch set, inside one page and on an unprotected range starts the program of its bytes at the address
taken modulo `DEVICE_SIZE`, BUSY = 1, WEL staying 1; on a protected range it is ignored and WEL is unspecified; without
the latch, or on a device that is busy or in deep power-down, it is ignored (R134, R138, R139). Without the latch WEL stays
0 on a protected range too, which R139 leaves unspecified (the model's choice, log 27). A frame that crosses a page is in
CrossingAndMisalignedFramesAreRefused. -/
def Obligations.PageProgramFrameStartsProgram : Prop :=
  ∀ (s : State) (a : Addr24) (d : List Byte), 1 ≤ d.length → d.length ≤ 256 →
    (a.toNat % s.cfg.deviceSize) % 256 + d.length ≤ 256 →
    StartsOrIgnored (.pp a d) s (a.toNat % s.cfg.deviceSize) (a.toNat % s.cfg.deviceSize + d.length)
      (.program (a.toNat % s.cfg.deviceSize) d)

/-- SE with the latch set on an unprotected sector starts its erase; the other cases are those of a page-program (R135,
R138, R139), WEL staying 0 without the latch on a protected sector too (the model's choice where R139 leaves it
unspecified, log 27). -/
def Obligations.SectorEraseFrameStartsErase : Prop :=
  ∀ (s : State) (a : Addr24), (a.toNat % s.cfg.deviceSize) % s.cfg.sectorSize = 0 →
    StartsOrIgnored (.se a) s (a.toNat % s.cfg.deviceSize) (a.toNat % s.cfg.deviceSize + s.cfg.sectorSize)
      (.erase (a.toNat % s.cfg.deviceSize) (a.toNat % s.cfg.deviceSize + s.cfg.sectorSize))

/-- CE is an erase of the whole array, BE one of `BLOCK_RANGE` of its address; the cases are those of a sector-erase
(R136, R137, R138, R139), WEL staying 0 without the latch on a protected range too (the model's choice where R139 leaves it
unspecified, log 27). `BLOCK_RANGE` is a constant of the implementation, cut to the array (log 11). -/
def Obligations.BlockAndChipEraseFramesStartErase : Prop :=
  ∀ (s : State) (a : Addr24),
    StartsOrIgnored .ce s 0 s.cfg.deviceSize (.erase 0 s.cfg.deviceSize) ∧
    StartsOrIgnored (.be a) s (blockRange s.cfg (a.toNat % s.cfg.deviceSize)).1
      (blockRange s.cfg (a.toNat % s.cfg.deviceSize)).2
      (.erase (blockRange s.cfg (a.toNat % s.cfg.deviceSize)).1 (blockRange s.cfg (a.toNat % s.cfg.deviceSize)).2)

/-- A page-program that crosses a page boundary, and a sector-erase that is not sector-aligned, have no meaning when the
device would otherwise take them (R64, and the rows U3 and U4 of the unspecified behaviours); without the latch, or on a
device that is busy or in deep power-down, they are ignored as any such frame is (R134, R135, R138). Where the model draws
the line is log 13. Without the latch WEL stays 0 on a protected range too, which R139 leaves unspecified (the model's
choice, log 27). -/
def Obligations.CrossingAndMisalignedFramesAreRefused : Prop :=
  ∀ (s : State) (a : Addr24) (d : List Byte),
    (s.dev.busy = false → s.dev.dpd = false → s.dev.wel = true →
      (1 ≤ d.length → d.length ≤ 256 → 256 < (a.toNat % s.cfg.deviceSize) % 256 + d.length →
        exec (.pp a d) s = .refused .pageCrossing) ∧
      ((a.toNat % s.cfg.deviceSize) % s.cfg.sectorSize ≠ 0 → exec (.se a) s = .refused .eraseMisaligned)) ∧
    (s.dev.busy = true ∨ s.dev.dpd = true ∨ s.dev.wel = false →
      (1 ≤ d.length → d.length ≤ 256 → FrameGives (.pp a d) s { s.dev with arm := false } []) ∧
      FrameGives (.se a) s { s.dev with arm := false } [])

/-- ULBPR with the latch set leaves no address protected and clears WEL, without becoming busy; without the latch, or on
a device that is busy or in deep power-down, it is ignored (R141). -/
def Obligations.UnlockFrameUnprotectsEverything : Prop :=
  ∀ s : State,
    (s.dev.busy = false → s.dev.dpd = false → s.dev.wel = true →
      ∃ pr, (∀ x, protAt pr x = false) ∧
        FrameGives .ulbpr s { s.dev with arm := false, prot := pr, wel := false } []) ∧
    (s.dev.busy = true ∨ s.dev.dpd = true ∨ s.dev.wel = false →
      FrameGives .ulbpr s { s.dev with arm := false } [])

/-- DPD enters deep power-down and RDPD leaves it; a busy device ignores both, and in deep power-down every other frame
is ignored (R142, R143). -/
def Obligations.DeepPowerDownFramesToggle : Prop :=
  (∀ s : State, s.dev.busy = false →
    FrameGives .dpd s { s.dev with arm := false, dpd := true } [] ∧
    FrameGives .rdpd s { s.dev with arm := false, dpd := false } []) ∧
  (∀ s : State, s.dev.busy = true →
    FrameGives .dpd s { s.dev with arm := false } [] ∧ FrameGives .rdpd s { s.dev with arm := false } []) ∧
  (∀ (s : State) (i : Instr), s.dev.dpd = true → isFrame i = true → i ≠ .rdpd → FrameIgnored i s)

/-- A busy device ignores every frame but read-status, read-config, reset-enable and reset (R138). -/
def Obligations.BusyDeviceIgnoresOtherFrames : Prop :=
  ∀ (s : State) (i : Instr), s.dev.busy = true → isFrame i = true → (∀ n, i ≠ .rdsr n) → (∀ n, i ≠ .rdcr n) →
    i ≠ .rsten → i ≠ .rst → FrameIgnored i s

/-- `ENGINE.complete` programs by AND and erases to 0xFF, in one step, and clears BUSY, WEL and what was in flight; where
it does not happen, or nothing is in flight, the device is unchanged (R37). The step is an idle one of the schedule
(log 2). -/
def Obligations.EngineCompletesInFlight : Prop :=
  ∀ s : State, s.seq.op = none → s.inbox = [] → Memory.wf s.dev.mem = true →
    ∃ t, step s = .next t ∧
      (s.slot.complete = false ∨ s.dev.pend = .none → t.dev = s.dev) ∧
      (s.slot.complete = true → s.dev.pend ≠ .none →
        t.dev = { s.dev with busy := false, wel := false, pend := .none, mem := t.dev.mem } ∧
        ∀ x, ¬ pendTarget s.dev.pend x → memRead t.dev.mem x = memRead s.dev.mem x) ∧
      (∀ a d, s.slot.complete = true → s.dev.pend = .program a d →
        ∀ j b, d[j]? = some b → memRead t.dev.mem (a + j) = memRead s.dev.mem (a + j) &&& b) ∧
      (∀ lo hi, s.slot.complete = true → s.dev.pend = .erase lo hi →
        ∀ x, lo ≤ x → x < hi → memRead t.dev.mem x = 0xFF)

/-- No frame writes the array, except a reset that aborts what is in flight: only `ENGINE.complete` does (R42). -/
def Obligations.FramesNeverWriteArray : Prop :=
  ∀ (s t : State) (i : Instr), isFrame i = true → exec i s = .next t →
    (i = .rst → s.dev.arm = true → s.dev.dpd = false → s.dev.pend = .none) → t.dev.mem = s.dev.mem

/-- No read command has a side effect: it completes in every state and changes nothing of the device but `DEV.ARM` and
`DEV.AC`; and a device that takes it returns the same bytes when it is repeated, status bits 7:6 and the free bytes past
the third identifier byte apart (R35, R68, R145, and the row U12; past the first configuration byte that is the model's
choice, log 16, and so is what read block-protection returns, log 12). -/
def Obligations.ReadCommandsHaveNoSideEffect : Prop :=
  (∀ (s : State) (i : Instr), isReadCommand i = true → ∃ c rx, FrameGives i s { s.dev with arm := false, ac := c } rx) ∧
  (∀ (s t u : State) (i : Instr), isReadCommand i = true → (∀ n, i ≠ .rdsr n) → (∀ n, i = .rdid n → n ≤ 3) →
    Accepts s.dev i → exec i s = .next t → exec i t = .next u →
    ∃ r, t.trace = s.trace ++ [r] ∧ u.trace = t.trace ++ [r])

/-! ## Requests -/

/-- `writeEnable` is one WREN frame and `writeDisable` one WRDI frame; when the bus does not fail they return `Ok`, and
the latch is as the device's own rule says (R126, R127, R168, R169). -/
def Obligations.LatchRequestsSendOneFrame : Prop :=
  ∀ s : State, Ready s → s.slot.noError →
    (RequestGivesAtOnce .reqWriteEnable s .ok [[s.cfg.ops.wren]] [] none
      { devAtFrame s with
        arm := false,
        wel := if (devAtFrame s).busy = false ∧ (devAtFrame s).dpd = false then true else (devAtFrame s).wel }) ∧
    (RequestGivesAtOnce .reqWriteDisable s .ok [[s.cfg.ops.wrdi]] [] none
      { devAtFrame s with
        arm := false,
        wel := if (devAtFrame s).busy = false ∧ (devAtFrame s).dpd = false then false else (devAtFrame s).wel })

/-- `readStatus` delivers the status byte and `readConfig` the configuration byte, each by one frame, from a busy device
too (R124, R125, R166, R167). -/
def Obligations.RegisterReadsDeliverOneByte : Prop :=
  ∀ s : State, Ready s → s.slot.noError → (devAtFrame s).dpd = false →
    (∃ b : Byte,
      RequestGivesAtOnce .reqReadStatus s .ok [[s.cfg.ops.rdsr]] [b] none { devAtFrame s with arm := false } ∧
      b.getLsbD 0 = (devAtFrame s).busy ∧ b.getLsbD 1 = (devAtFrame s).wel ∧
      b.extractLsb' 2 4 = (devAtFrame s).aux) ∧
    RequestGivesAtOnce .reqReadConfig s .ok [[s.cfg.ops.rdcr]] [(devAtFrame s).cr] none { devAtFrame s with arm := false }

/-- `checkId` is one RDID frame; it returns `Ok` when the three bytes are `EXPECTED_ID`, else `VerificationFailure` (R131,
R176). From a device that does not answer, being absent or still resetting, in deep power-down or busy, the bytes are
unspecified, and it returns one of the two; an absent device is unchanged (R131; log 34). -/
def Obligations.CheckIdComparesThreeBytes : Prop :=
  ∀ s : State, Ready s → s.slot.hdrErr = none → s.slot.dataErr = none →
    (s.slot.absent = false → (devAtFrame s).busy = false → (devAtFrame s).dpd = false →
      RequestGivesAtOnce .reqCheckId s (if s.dev.id = s.cfg.expectedId then .ok else .verificationFailure)
        [[s.cfg.ops.rdid]] [] none { devAtFrame s with arm := false }) ∧
    (s.slot.absent = false → (devAtFrame s).busy = true ∨ (devAtFrame s).dpd = true →
      ∃ st, (st = .ok ∨ st = .verificationFailure) ∧
        RequestGivesAtOnce .reqCheckId s st [[s.cfg.ops.rdid]] [] none { devAtFrame s with arm := false }) ∧
    (s.slot.absent = true →
      ∃ st, (st = .ok ∨ st = .verificationFailure) ∧
        RequestGivesAtOnce .reqCheckId s st [[s.cfg.ops.rdid]] [] none (devAtFrame s))

/-- `reset` is RSTEN then RST, with nothing between them, and resets a device that is not in deep power-down, busy or not
(R46, R192). -/
def Obligations.ResetRequestResetsDevice : Prop :=
  ∀ s : State, Ready s → BusOk s → s.dev.dpd = false → Memory.wf s.dev.mem = true →
    ∃ c m pr,
      RequestGives .reqReset s .ok [[s.cfg.ops.rsten], [s.cfg.ops.rst]] [] none
        { s.dev with
          busy := false, wel := false, arm := false, dpd := false, pend := .none, prot := pr, cr := c, mem := m } ∧
      (∀ x, x < s.cfg.deviceSize → protAt pr x = s.cfg.protAfterReset) ∧
      (∀ x, ¬ pendTarget s.dev.pend x → memRead m x = memRead s.dev.mem x)

/-- `read` and `blockRead` are one READ frame at the masked address, whatever the range, and deliver its bytes, wrapping
at the end of the device (R129, R193, R231). -/
def Obligations.ReadRequestsDeliverArray : Prop :=
  ∀ (s : State) (i : Instr) (adapter : Bool) (addr : Word) (n : Nat),
    readOperands s.cfg i = some (adapter, addr, n) → Ready s → s.slot.noError →
    (devAtFrame s).busy = false → (devAtFrame s).dpd = false →
    ∃ c out,
      RequestGivesAtOnce i s .ok [s.cfg.ops.read :: addr24 addr] out (codeOf adapter .ok)
        { devAtFrame s with arm := false, ac := c } ∧
      out.length = n ∧
      ∀ j, j < n → out[j]? = some (memRead (devAtFrame s).mem ((addr.toNat % 2 ^ 24 + j) % s.cfg.deviceSize))

/-- A request that begins with a frame, and whose first frame fails in its header call or in its data call, returns that
transport error, having sent that frame and no other (R163, R190, R251). The busy-poll begins with a clock sample: its
frames, and every later frame, are in TransportFailureEndsOperation. -/
def Obligations.FirstFrameFailureEndsRequest : Prop :=
  ∀ (s : State) (i : Instr) (e : BusError), Ready s → opensWithFrame s.cfg i = true →
    firstFrameError s.cfg i s.slot = some e →
    ∃ t, exec i s = .next t ∧ Returned (.transportError e) t ∧ t.trace.length = 1 ∧ RequestKeeps i s t

/-- `eraseSector` and `verifySectorErased` at an address that is not sector-aligned return `AlignmentError`; no frame is
sent and the device is unchanged; the same through `ADAPTER` (R65, R236, R255). The bus is taken as released before the
request, as it is between operations (R25, StepKeepsInvariant). -/
def Obligations.MisalignedSectorRequestsSendNothing : Prop :=
  ∀ (s : State) (i : Instr) (adapter : Bool) (addr : Word),
    (eraseOperands s.cfg i = some (adapter, addr) ∨ verifyOperands s.cfg i = some (adapter, addr)) → Ready s →
    s.seq.sel = false → addr.toNat % s.cfg.sectorSize ≠ 0 →
    RequestGivesAtOnce i s .alignmentError [] [] (codeOf adapter .alignmentError) s.dev

/-- `eraseSector` and `blockErase` on an unprotected sector of a device that completes before its first poll return
`Ok`: every byte of the sector is 0xFF, every other byte is unchanged, and the latch is clear (R204, R233, R301). -/
def Obligations.EraseRequestsEraseTheSector : Prop :=
  ∀ (s : State) (i : Instr) (adapter : Bool) (addr : Word), eraseOperands s.cfg i = some (adapter, addr) → Ready s →
    BusOk s → Eager s → Listening s.dev → Memory.wf s.dev.mem = true → addr.toNat % s.cfg.sectorSize = 0 →
    Unprotected s.dev (sectorOf s.cfg addr) (sectorOf s.cfg addr + s.cfg.sectorSize) →
    ∃ m,
      RequestGives i s .ok
        ([[s.cfg.ops.wren], [s.cfg.ops.rdsr], s.cfg.ops.se :: addr24 addr, [s.cfg.ops.rdsr], [s.cfg.ops.wrdi]] ++
          clearedFrame s.cfg)
        [] (codeOf adapter .ok) { s.dev with arm := false, wel := false, mem := m } ∧
      ∀ x, memRead m x =
        if sectorOf s.cfg addr ≤ x ∧ x < sectorOf s.cfg addr + s.cfg.sectorSize then 0xFF else memRead s.dev.mem x

/-- `verifySectorErased` and `blockEraseVerify` return `Ok` when every byte of the sector is 0xFF, having read it slice by
slice; otherwise `VerificationFailure`, having read the slices up to the one that holds the first byte that is not 0xFF,
that one whole, and none after it (R205, R234, R254). -/
def Obligations.VerifyRequestsFindErasedSectors : Prop :=
  ∀ (s : State) (i : Instr) (adapter : Bool) (addr : Word), verifyOperands s.cfg i = some (adapter, addr) → Ready s →
    BusOk s → Listening s.dev → addr.toNat % s.cfg.sectorSize = 0 →
    ((∀ j, j < s.cfg.sectorSize → memRead s.dev.mem (sectorOf s.cfg addr + j) = 0xFF) →
      ∃ c, RequestGives i s .ok
        ((List.range (s.cfg.sectorSize / s.cfg.verifySlice)).map fun k =>
          s.cfg.ops.read :: addr24 (addr + BitVec.ofNat 32 (k * s.cfg.verifySlice)))
        [] (codeOf adapter .ok) { s.dev with arm := false, ac := c }) ∧
    (∀ j, j < s.cfg.sectorSize → memRead s.dev.mem (sectorOf s.cfg addr + j) ≠ 0xFF →
      (∀ k, k < j → memRead s.dev.mem (sectorOf s.cfg addr + k) = 0xFF) →
      ∃ c, RequestGives i s .verificationFailure
        ((List.range (j / s.cfg.verifySlice + 1)).map fun k =>
          s.cfg.ops.read :: addr24 (addr + BitVec.ofNat 32 (k * s.cfg.verifySlice)))
        [] (codeOf adapter .verificationFailure) { s.dev with arm := false, ac := c })

/-- `writeStatus` is WREN, RDSR, WRSR and, when `CHECK_WEL_CLEARED`, RDSR; on a listening device it writes the
configuration register and leaves the latch clear (R128, R178, R179). -/
def Obligations.WriteStatusRequestWritesConfig : Prop :=
  ∀ (s : State) (st cf : Byte), Ready s → BusOk s → Listening s.dev →
    RequestGives (.reqWriteStatus st cf) s .ok
      ([[s.cfg.ops.wren], [s.cfg.ops.rdsr], [s.cfg.ops.wrsr, st, cf]] ++ clearedFrame s.cfg) [] none
      { s.dev with arm := false, cr := cf, wel := false }

/-- `unlockAllBlocks` is WREN, RDSR, ULBPR and, when `CHECK_WEL_CLEARED`, RDSR; on a listening device it leaves no
address protected and the latch clear (R141, R177, R179). -/
def Obligations.UnlockRequestUnprotectsEverything : Prop :=
  ∀ s : State, Ready s → BusOk s → Listening s.dev →
    ∃ pr, (∀ x, protAt pr x = false) ∧
      RequestGives .reqUnlockAllBlocks s .ok
        ([[s.cfg.ops.wren], [s.cfg.ops.rdsr], [s.cfg.ops.ulbpr]] ++ clearedFrame s.cfg) [] none
        { s.dev with arm := false, prot := pr, wel := false }

/-- `write` and `blockWrite` on an unprotected range of distinct addresses of a device that completes before each first
poll: each byte of the range becomes its old value AND the data, every other byte is unchanged, the latch is clear; the
status is `Ok`, or, when `VERIFY_AFTER_WRITE` and some data byte did not stick, `VerificationFailure` (R200, R202, R232).
With the read-back on, a range that crosses flash address 2^24 is stated only for a `DEVICE_SIZE` that divides 2^24:
elsewhere the cursor and the one read frame wrap at different places (R23, R44). -/
def Obligations.WriteRequestsProgramTheRange : Prop :=
  ∀ (s : State) (i : Instr) (adapter : Bool) (addr : Word) (n : Nat) (buf : List Byte),
    writeOperands s.cfg i = some (adapter, addr, n, buf) → Ready s → BusOk s → Eager s → Listening s.dev →
    Memory.wf s.dev.mem = true →
    (∀ j, j < n → protAt s.dev.prot (targetAddr s.cfg addr j) = false) →
    (∀ j k, j < k → k < n → targetAddr s.cfg addr j ≠ targetAddr s.cfg addr k) →
    (s.cfg.verifyAfterWrite = true → addr.toNat % 2 ^ 24 + n ≤ 2 ^ 24 ∨ 2 ^ 24 % s.cfg.deviceSize = 0) →
    ∃ st frames c m,
      RequestGives i s st frames [] (codeOf adapter st) { s.dev with arm := false, wel := false, ac := c, mem := m } ∧
      (∀ j b, j < n → buf[j]? = some b →
        memRead m (targetAddr s.cfg addr j) = memRead s.dev.mem (targetAddr s.cfg addr j) &&& b) ∧
      (∀ x, (∀ j, j < n → targetAddr s.cfg addr j ≠ x) → memRead m x = memRead s.dev.mem x) ∧
      (s.cfg.verifyAfterWrite = false ∨
        (∀ j b, j < n → buf[j]? = some b → memRead s.dev.mem (targetAddr s.cfg addr j) &&& b = b) → st = .ok) ∧
      (s.cfg.verifyAfterWrite = true →
        (∃ j b, j < n ∧ buf[j]? = some b ∧ memRead s.dev.mem (targetAddr s.cfg addr j) &&& b ≠ b) →
        st = .verificationFailure)

/-- The page-program frames of every successful `write` or `blockWrite` are consecutive pieces, each inside one page,
that carry the data exactly, and their number is the number of pages the range touches, whatever the bus, the device and
the clock do; while the write is in progress they do so up to its cursor (R76, R201). -/
def Obligations.WriteRequestsTileTheRange : Prop :=
  (∀ (s t : State) (i : Instr) (adapter : Bool) (addr : Word) (n : Nat) (buf : List Byte),
    writeOperands s.cfg i = some (adapter, addr, n, buf) → exec i s = .next t → Tiled addr n t ∧ t.host.inp = buf) ∧
  (∀ (s t : State) (adapter : Bool) (addr size : Word) (pt : Point), Inv s →
    s.seq.op = some { op := .write adapter addr size, pt := pt } → Tiled addr size.toNat s → step s = .next t →
    Tiled addr size.toNat t ∧ t.host.inp = s.host.inp)

/-- Every page-program frame the sequencer sends whole has 1 to 256 data bytes and stays in one page, whatever the bus,
the device and the clock do, at the request's acceptance and at each of its steps (R64, R201). -/
def Obligations.ProgramFramesStayInPage : Prop :=
  (∀ (s t : State) (i : Instr), isFrame i = false → exec i s = .next t →
    ∀ r ∈ t.trace, programInPage s.cfg.ops r) ∧
  (∀ (s t : State) (task : Task), Inv s → s.seq.op = some task → step s = .next t →
    (∀ r ∈ s.trace, programInPage s.cfg.ops r) → ∀ r ∈ t.trace, programInPage s.cfg.ops r)

/-- The identifier wait of the bring-up, step by step: one RDID frame; when it returns `EXPECTED_ID` the unlock follows, and
every failure, a mismatch or a transport error alike, is answered by the timeout test, where there is a bound, and a wait,
after which the check is repeated; only the bound ends the loop (R176, R191, R251). The frames of the reset before it and of
the unlock after it end the bring-up when they fail: TransportFailureEndsOperation. -/
def Obligations.IdentifierWaitRepeatsUntilMatch : Prop :=
  ∀ (s : State) (adapter : Bool),
    (s.seq.op = some { op := .bringUp adapter, pt := .identify } →
      ∃ t r, step s = .next t ∧ t.trace = s.trace ++ [r] ∧ r.tx = [s.cfg.ops.rdid] ∧
        (r.err = none ∧ r.rx = [s.cfg.expectedId.vendor, s.cfg.expectedId.device, s.cfg.expectedId.capacity] →
          t.seq.op = some { op := .bringUp adapter, pt := .enable }) ∧
        (r.err ≠ none ∨ r.rx ≠ [s.cfg.expectedId.vendor, s.cfg.expectedId.device, s.cfg.expectedId.capacity] →
          t.seq.op = some { op := .bringUp adapter, pt := if s.cfg.tInitMs = 0 then .wait else .test })) ∧
    (s.seq.op = some { op := .bringUp adapter, pt := .test } →
      ∃ t, step s = .next t ∧ t.trace = s.trace ∧
        (s.cfg.tInitMs ≠ 0 ∧ s.cfg.tInitMs < t.clock - s.seq.ctx.t0 → t.seq.op = none ∧ t.seq.st = .timeout) ∧
        (s.cfg.tInitMs = 0 ∨ t.clock - s.seq.ctx.t0 ≤ s.cfg.tInitMs →
          t.seq.op = some { op := .bringUp adapter, pt := .wait } ∧ t.seq.ctx = s.seq.ctx)) ∧
    (s.seq.op = some { op := .bringUp adapter, pt := .wait } →
      ∃ t, step s = .next t ∧ t.trace = s.trace ∧ s.clock + s.cfg.pollIntervalMs ≤ t.clock ∧
        t.seq.op = some { op := .bringUp adapter, pt := .identify } ∧ t.seq.ctx = s.seq.ctx)

/-- In every operation that waits, `busyPoll`, `write`, `eraseSector` and `initialize`: the start of the wait is sampled and
kept; `Timeout` is returned at the timeout test alone, exactly when there is a bound and more time than it has passed since
that start, by the clock the test samples; otherwise the test is followed by a wait, and the wait by the next read. A poll
that reads BUSY = 1 is followed by the test, or by the wait where there is no bound; one that reads BUSY = 0 leaves the loop.
The bound is `timeoutMs`, `T_PROG_MS`, `T_ERASE_MS` and `T_INIT_MS`. No request returns `Timeout` in its first step. While
one iteration, from sample to test or from test to test, advances the clock by at most `POLL_INTERVAL_MS`, the premise of
R269, no test of a bounded wait comes later than the bound plus `POLL_INTERVAL_MS` after the start, so that `Timeout` does not (R174, R191,
R200, R204, R253, R269). -/
def Obligations.TimeoutComesOnlyAfterBound : Prop :=
  (∀ (s t : State) (i : Instr), isFrame i = false → exec i s = .next t → t.seq.op = none → t.seq.st ≠ .timeout) ∧
  (∀ (s t : State) (op : Op) (pt : Point), s.seq.op = some { op := op, pt := pt } → step s = .next t →
    (pt = .sample → t.seq.ctx.t0 = t.clock) ∧
    (pt = .sample ∨ pt = .wait →
      ((∀ a, op ≠ .bringUp a) → t.seq.op = some { op := op, pt := .poll }) ∧
      (∀ a, op = .bringUp a → t.seq.op = some { op := op, pt := .identify })) ∧
    (pt ≠ .sample → t.seq.op ≠ none → t.seq.ctx.t0 = s.seq.ctx.t0) ∧
    (pt ≠ .test → t.seq.op = none → t.seq.st ≠ .timeout) ∧
    (∀ bound : Nat, HasBound s.cfg op bound →
      (pt = .test → 0 < bound ∧ bound < t.clock - s.seq.ctx.t0 → t.seq.op = none ∧ t.seq.st = .timeout) ∧
      (pt = .test → bound = 0 ∨ t.clock - s.seq.ctx.t0 ≤ bound → t.seq.op = some { op := op, pt := .wait }) ∧
      (pt = .poll → ∃ r, t.trace = s.trace ++ [r] ∧ r.tx = [s.cfg.ops.rdsr] ∧ (r.err = none → ∃ b, r.rx = [b] ∧
        (byteBusy b = true → t.seq.op = some { op := op, pt := if bound = 0 then .wait else .test }) ∧
        (byteBusy b = false → t.seq.op = none ∧ t.seq.st = .ok ∨
          t.seq.op = some { op := op, pt := .enable } ∨ t.seq.op = some { op := op, pt := .disable }))))) ∧
  (∀ (a b c d : State) (op : Op) (bound : Nat), HasBound a.cfg op bound → 0 < bound →
    a.seq.op = some { op := op, pt := .sample } → step a = .next b → step b = .next c →
    c.seq.op = some { op := op, pt := .test } → step c = .next d →
    d.clock ≤ b.clock + a.cfg.pollIntervalMs → d.clock - c.seq.ctx.t0 ≤ bound + a.cfg.pollIntervalMs) ∧
  (∀ (a b c d e : State) (op : Op) (bound : Nat), HasBound a.cfg op bound → 0 < bound →
    a.seq.op = some { op := op, pt := .test } → step a = .next b → b.seq.op ≠ none → step b = .next c → step c = .next d →
    d.seq.op = some { op := op, pt := .test } → step d = .next e →
    e.clock ≤ b.clock + a.cfg.pollIntervalMs → e.clock - d.seq.ctx.t0 ≤ bound + a.cfg.pollIntervalMs)

/-- A busy-poll without bound of a device that stays busy never ends: it polls, waits, and stands at its poll again (R174,
R270). -/
def Obligations.UnboundedPollOfBusyDeviceWaits : Prop :=
  ∀ s : State, validParams s.cfg = true → s.seq.op = some { op := .busyPoll 0, pt := .poll } → BusOk s →
    NeverCompletes s → s.dev.busy = true → s.dev.dpd = false →
    ∃ u t, step s = .next u ∧ step u = .next t ∧ t.cfg = s.cfg ∧ t.seq.op = some { op := .busyPoll 0, pt := .poll } ∧
      BusOk t ∧ NeverCompletes t ∧ t.dev = { s.dev with arm := false } ∧
      sentFrames t = sentFrames s ++ [[s.cfg.ops.rdsr]] ∧ s.clock + s.cfg.pollIntervalMs ≤ t.clock

/-- `initialize` and `systemError` bring up a device that answers `EXPECTED_ID` and is not in deep power-down, busy or
not: RSTEN, RST, RDID, WREN, RDSR, ULBPR and, when `CHECK_WEL_CLEARED`, RDSR; the device is reset and no address is
protected (R46, R191, R235, R282). -/
def Obligations.BringUpResetsAndUnlocks : Prop :=
  ∀ (s : State) (i : Instr) (adapter : Bool), bringUp i = some adapter → Ready s → BusOk s → s.dev.dpd = false →
    s.dev.id = s.cfg.expectedId → Memory.wf s.dev.mem = true →
    ∃ c m pr,
      RequestGives i s .ok
        ([[s.cfg.ops.rsten], [s.cfg.ops.rst], [s.cfg.ops.rdid], [s.cfg.ops.wren], [s.cfg.ops.rdsr], [s.cfg.ops.ulbpr]] ++
          clearedFrame s.cfg)
        [] (codeOf adapter .ok)
        { s.dev with
          busy := false, wel := false, arm := false, dpd := false, pend := .none, prot := pr, cr := c, mem := m } ∧
      (∀ x, protAt pr x = false) ∧
      (∀ x, ¬ pendTarget s.dev.pend x → memRead m x = memRead s.dev.mem x)

/-- An operation returns only the statuses the table of R206 gives it, in its first step or in a later one; `StateError` is
never returned (R206, R230, R256). -/
def Obligations.StatusesAreThoseOfTheTable : Prop :=
  (∀ (s t : State) (i : Instr), isFrame i = false → exec i s = .next t → t.seq.op = none →
    mayReturn s.cfg i t.seq.st = true) ∧
  (∀ (s t : State) (task : Task), ownPoint s.cfg task.op task.pt = true → s.seq.op = some task → step s = .next t →
    t.seq.op = none → mayReturn s.cfg (requestOf task.op) t.seq.st = true)

/-- A request has no meaning while an operation is in progress (R164), under a code outside the table (R100), and
through `ADAPTER` when a product is 2^32 or more (R75). -/
def Obligations.RequestsWithoutMeaningAreRefused : Prop :=
  (∀ (s : State) (i : Instr), isFrame i = false → s.seq.op ≠ none → ∃ r, exec i s = .refused r) ∧
  (∀ (s : State) (code : Byte) (body : List Byte) (later : List Item), s.seq.op = none →
    s.inbox = .wire (.request (code :: body)) :: later →
    (code.toNat = 0x0E ∨ code.toNat = 0x0F ∨ 0x15 ≤ code.toNat) →
    step s = .refused (.unknownRequest code)) ∧
  (∀ (s : State) (a w : Word) (src : List Byte), 2 ^ 32 ≤ w.toNat * s.cfg.wordSize →
    exec (.reqBlockRead a w) s = .refused .productTooLarge ∧
    exec (.reqBlockWrite a w src) s = .refused .productTooLarge) ∧
  (∀ (s : State) (b c : Word), 2 ^ 32 ≤ b.toNat * s.cfg.wordsPerBlock * s.cfg.wordSize →
    exec (.reqBlockErase b c) s = .refused .productTooLarge ∧
    exec (.reqBlockEraseVerify b) s = .refused .productTooLarge)

/-- No page-program, sector-erase, unlock or write-status frame is sent by the sequencer unless the frame just before it
is a read-status that returned a byte with WEL set, whatever the bus, the device and the clock do (R170, R172). A latch check
that reads WEL = 0, and where `CHECK_WEL_CLEARED` a check of the cleared latch that reads WEL = 1, returns
`ProtocolViolation`, and nothing else does: the operation ends, sends no command and leaves the array as `ENGINE` had it. A
latch check that reads WEL = 1 goes on to the command, and a check of the cleared latch that reads WEL = 0 to the read-back
of a write or to `Ok` (R172, R179, R203, R252). -/
def Obligations.LatchIsCheckedBeforeUse : Prop :=
  (∀ (s t : State) (i : Instr), isFrame i = false → exec i s = .next t → LatchGuarded t) ∧
  (∀ (s t : State) (task : Task), validParams s.cfg = true → s.seq.op = some task → step s = .next t →
    LatchGuarded s → LatchGuarded t) ∧
  (∀ (s t : State) (i : Instr), isFrame i = false → exec i s = .next t → t.seq.op = none →
    t.seq.st ≠ .protocolViolation) ∧
  (∀ (s t : State) (op : Op) (pt : Point), validParams s.cfg = true → s.seq.op = some { op := op, pt := pt } →
    step s = .next t →
    (t.seq.op = none → t.seq.st = .protocolViolation → pt = .latch ∨ pt = .cleared) ∧
    (pt = .latch ∨ pt = .cleared → ∃ r, t.trace = s.trace ++ [r] ∧ r.tx = [s.cfg.ops.rdsr] ∧
      (r.err = none → ∃ b, r.rx = [b] ∧ t.dev.mem = (devAtFrame s).mem ∧
        (byteWel b = decide (pt = .cleared) → t.seq.op = none ∧ t.seq.st = .protocolViolation) ∧
        (pt = .latch → byteWel b = true → t.seq.op = some { op := op, pt := .command }) ∧
        (pt = .cleared → byteWel b = false →
          (∀ x addr n, op = .write x addr n → s.cfg.verifyAfterWrite = true →
            t.seq.op = some { op := op, pt := .readBack }) ∧
          ((∀ x addr n, op ≠ .write x addr n) ∨ s.cfg.verifyAfterWrite = false → t.seq.op = none ∧ t.seq.st = .ok)))))

/-- On a protected target an erase returns `Ok` and leaves the array unchanged, and so does a write without read-back
whose whole range is protected: the loss is silent (R139, R292). -/
def Obligations.ProtectedTargetIsLostSilently : Prop :=
  (∀ (s : State) (i : Instr) (adapter : Bool) (addr : Word), eraseOperands s.cfg i = some (adapter, addr) → Ready s →
    BusOk s → Listening s.dev → addr.toNat % s.cfg.sectorSize = 0 →
    ¬ Unprotected s.dev (sectorOf s.cfg addr) (sectorOf s.cfg addr + s.cfg.sectorSize) →
    ∃ frames, RequestGives i s .ok frames [] (codeOf adapter .ok) { s.dev with arm := false, wel := false }) ∧
  (∀ (s : State) (i : Instr) (adapter : Bool) (addr : Word) (n : Nat) (buf : List Byte),
    writeOperands s.cfg i = some (adapter, addr, n, buf) → Ready s → BusOk s → Listening s.dev →
    s.cfg.verifyAfterWrite = false → (∀ j, j < n → protAt s.dev.prot (targetAddr s.cfg addr j) = true) →
    ∃ frames, RequestGives i s .ok frames [] (codeOf adapter .ok) { s.dev with arm := false, wel := false })

/-- The first frame whose transport fails ends the operation: it is the last frame sent, its error is the status returned,
and nothing is retried; in every operation, the reset and the unlock of the bring-up included, and excepting only the
identifier check of the bring-up, after whose failure the bring-up goes on with the check's loop (R190, R191, R251). -/
def Obligations.TransportFailureEndsOperation : Prop :=
  (∀ (s t : State) (i : Instr), isFrame i = false → exec i s = .next t →
    ∀ r ∈ t.trace, ∀ e, r.err = some e → t.seq.op = none ∧ t.seq.st = .transportError e) ∧
  (∀ (s t : State) (op : Op) (pt : Point) (r : FrameRec) (e : BusError), s.seq.op = some { op := op, pt := pt } →
    step s = .next t → t.trace = s.trace ++ [r] → r.err = some e →
    ((∀ a, op ≠ .bringUp a) ∨ pt ≠ .identify → t.seq.op = none ∧ t.seq.st = .transportError e) ∧
    (∀ a, op = .bringUp a → pt = .identify →
      t.seq.op = some { op := op, pt := if s.cfg.tInitMs = 0 then .wait else .test })) ∧
  (∀ (s : State) (task : Task) (e : BusError), s.seq.op = some task → sendsNothing task.pt = false →
    s.slot.hdrErr = some e → ∃ t r, step s = .next t ∧ t.trace = s.trace ++ [r] ∧ r.err = some e)

/-- Each `Select()` is matched by one `Deselect()` and the bus is released, when an operation returns on any path and
between any two of its steps (R25, R160, R163). -/
def Obligations.SelectAndDeselectMatch : Prop :=
  (∀ (s t : State) (i : Instr), isFrame i = false → s.seq.sel = false → exec i s = .next t →
    Bracketed t ∧ t.seq.sel = false ∧ t.seq.ph = .idle) ∧
  (∀ (s t : State) (task : Task), s.seq.op = some task → s.seq.sel = false → s.seq.ph = .idle → Bracketed s →
    step s = .next t → Bracketed t ∧ t.seq.sel = false ∧ t.seq.ph = .idle)

/-- `busyPoll` of a device that is ready returns `Ok` after one RDSR frame, whatever the bound; and every busy-poll, that of
`busyPoll`, of a write or of an erase, is a barrier: while the bus does not fail and the device is there and not in deep
power-down, when a poll leaves its loop without a failure, nothing is in flight any more (R71, R174). -/
def Obligations.BusyPollIsABarrier : Prop :=
  (∀ (s : State) (timeoutMs : Word), Ready s → BusOk s → Listening s.dev →
    RequestGives (.reqBusyPoll timeoutMs) s .ok [[s.cfg.ops.rdsr]] [] none { s.dev with arm := false }) ∧
  (∀ (s t : State) (op : Op), validParams s.cfg = true → BusOk s → DevOk s.cfg s.dev → s.dev.dpd = false →
    s.seq.op = some { op := op, pt := .poll } → step s = .next t →
    (t.seq.op = none ∧ t.seq.st = .ok) ∨ (∃ pt, t.seq.op = some { op := op, pt := pt } ∧ pt ≠ .wait ∧ pt ≠ .test) →
    t.dev.pend = .none ∧ t.dev.busy = false)
end

