-- ==== Sys2Proof/Laws/Decode.lean ====
section
/-! SUPPORT. The laws of the encodings: addresses and operands survive being split into bytes, a distinct opcode map is
inverted by its look-up. -/

namespace Sys2Proof

theorem join24_bytes (a : Addr24) :
    join24 (BitVec.ofNat 8 (a.toNat / 65536)) (BitVec.ofNat 8 (a.toNat / 256)) (BitVec.ofNat 8 a.toNat) = a := by
  apply BitVec.eq_of_toNat_eq
  have := a.isLt
  simp only [join24, BitVec.toNat_ofNat]
  omega

theorem join16_bytes (a : Addr16) : join16 (BitVec.ofNat 8 (a.toNat / 256)) (BitVec.ofNat 8 a.toNat) = a := by
  apply BitVec.eq_of_toNat_eq
  have := a.isLt
  simp only [join16, BitVec.toNat_ofNat]
  omega

theorem join32_bytes (w : Word) :
    join32 (BitVec.ofNat 8 (w.toNat / 16777216)) (BitVec.ofNat 8 (w.toNat / 65536)) (BitVec.ofNat 8 (w.toNat / 256))
      (BitVec.ofNat 8 w.toNat) = w := by
  apply BitVec.eq_of_toNat_eq
  have := w.isLt
  simp only [join32, BitVec.toNat_ofNat]
  omega

/-! The same in the form in which `simp` leaves the last byte. -/

@[simp] theorem join24_setWidth (a : Addr24) :
    join24 (BitVec.ofNat 8 (a.toNat / 65536)) (BitVec.ofNat 8 (a.toNat / 256)) (a.setWidth 8) = a := by
  rw [← BitVec.ofNat_toNat]; exact join24_bytes a

@[simp] theorem join16_setWidth (a : Addr16) : join16 (BitVec.ofNat 8 (a.toNat / 256)) (a.setWidth 8) = a := by
  rw [← BitVec.ofNat_toNat]; exact join16_bytes a

@[simp] theorem join32_setWidth (w : Word) :
    join32 (BitVec.ofNat 8 (w.toNat / 16777216)) (BitVec.ofNat 8 (w.toNat / 65536)) (BitVec.ofNat 8 (w.toNat / 256))
      (w.setWidth 8) = w := by
  rw [← BitVec.ofNat_toNat]; exact join32_bytes w

theorem bytes24_join (x y z : Byte) : bytes24 (join24 x y z) = [x, y, z] := by
  have hx := x.isLt
  have hy := y.isLt
  have hz := z.isLt
  simp only [bytes24, join24, BitVec.toNat_ofNat, List.cons.injEq, and_true]
  refine ⟨?_, ?_, ?_⟩ <;> apply BitVec.eq_of_toNat_eq <;> simp only [BitVec.toNat_ofNat] <;> omega

theorem bytes16_join (x y : Byte) : bytes16 (join16 x y) = [x, y] := by
  have hx := x.isLt
  have hy := y.isLt
  simp only [bytes16, join16, BitVec.toNat_ofNat, List.cons.injEq, and_true]
  refine ⟨?_, ?_⟩ <;> apply BitVec.eq_of_toNat_eq <;> simp only [BitVec.toNat_ofNat] <;> omega

theorem bytes32_join (x y z t : Byte) : bytes32 (join32 x y z t) = [x, y, z, t] := by
  have hx := x.isLt
  have hy := y.isLt
  have hz := z.isLt
  have ht := t.isLt
  simp only [bytes32, join32, BitVec.toNat_ofNat, List.cons.injEq, and_true]
  refine ⟨?_, ?_, ?_, ?_⟩ <;> apply BitVec.eq_of_toNat_eq <;> simp only [BitVec.toNat_ofNat] <;> omega

@[simp] theorem bytes24_length (a : Addr24) : (bytes24 a).length = 3 := rfl

@[simp] theorem bytes16_length (a : Addr16) : (bytes16 a).length = 2 := rfl

@[simp] theorem bytes32_length (w : Word) : (bytes32 w).length = 4 := rfl

theorem Cmd.mem_all (c : Cmd) : c ∈ Cmd.all := by cases c <;> decide

/-- What the look-up finds has that opcode. -/
theorem Opcodes.byte_of_cmdOf {o : Opcodes} {b : Byte} {c : Cmd} (h : o.cmdOf b = some c) : o.byte c = b := by
  have := List.find?_some h
  simpa using this

/-- With pairwise distinct opcodes the look-up finds the command of each opcode. -/
theorem Opcodes.cmdOf_byte {o : Opcodes} (h : o.distinct = true) (c : Cmd) : o.cmdOf (o.byte c) = some c := by
  have hd : (Cmd.all.map o.byte).Nodup := of_decide_eq_true h
  cases hf : o.cmdOf (o.byte c) with
  | none =>
    have := List.find?_eq_none.mp hf c (Cmd.mem_all c)
    simp at this
  | some c' =>
    have hb := Opcodes.byte_of_cmdOf hf
    rw [List.inj_on_of_nodup_map hd (Cmd.mem_all c') (Cmd.mem_all c) hb]

/-- A frame whose first byte is the opcode of a command is decoded by that command's format. -/
theorem decodeFrame_byte {o : Opcodes} (h : o.distinct = true) (c : Cmd) (body : List Byte) (nrx : Nat) :
    decodeFrame o (o.byte c :: body) nrx = decodeBody c body nrx := by
  simp [decodeFrame, Opcodes.cmdOf_byte h c]

theorem Req.mem_all (r : Req) : r ∈ Req.all := by cases r <;> decide

/-- What the look-up of a request code finds has that code. -/
theorem Req.code_of_ofCode {b : Byte} {r : Req} (h : Req.ofCode b = some r) : r.code = b := by
  have := List.find?_some h
  simpa using this

/-- The look-up finds the request of each code. -/
theorem Req.ofCode_code (r : Req) : Req.ofCode r.code = some r := by cases r <;> decide

/-- A request whose first byte is the code of a request is decoded by that request's operands. -/
theorem decodeRequest_code (p : Params) (r : Req) (body : List Byte) :
    decodeRequest p (r.code :: body) = decodeOperands p r body := by
  simp [decodeRequest, Req.ofCode_code]

/-- A request that opens with no code is rejected. -/
theorem decodeRequest_unknown (p : Params) {b : Byte} (h : Req.ofCode b = none) (body : List Byte) :
    decodeRequest p (b :: body) = .error (.unknownRequest b) := by
  simp [decodeRequest, h]

/-- A frame that opens with no opcode is rejected. -/
theorem decodeFrame_unknown {o : Opcodes} {b : Byte} (h : o.cmdOf b = none) (body : List Byte) (nrx : Nat) :
    decodeFrame o (b :: body) nrx = .error (.unknownOpcode b) := by
  simp [decodeFrame, h]

end Sys2Proof
end

