-- ==== Sys2Proof/Laws/Memory.lean ====
section
/-! SUPPORT. The laws of the array: a read after a write, a program, an erase and a fill, and that every operation keeps
the canonical form and the bound of the array; and what `rangeProtected` means of `DEV.PROT`. -/

namespace Sys2Proof.Machine

theorem cellsAbove_mono {b c : Nat} (h : c ≤ b) : ∀ {m : Memory}, cellsAbove b m = true → cellsAbove c m = true
  | [], _ => rfl
  | (a, v) :: m, hm => by
    simp only [cellsAbove, Bool.and_eq_true, decide_eq_true_eq] at hm ⊢
    exact ⟨⟨by omega, hm.1.2⟩, hm.2⟩

theorem memRead_below {a : Nat} : ∀ {b : Nat} {m : Memory}, cellsAbove b m = true → a < b → memRead m a = erasedByte
  | _, [], _, _ => rfl
  | b, (c, v) :: m, hm, h => by
    simp only [cellsAbove, Bool.and_eq_true, decide_eq_true_eq] at hm
    rw [memRead, if_neg (by omega)]
    exact memRead_below hm.2 (by omega)

theorem memRead_memWrite_above (a a' : Nat) (v : Byte) :
    ∀ {b : Nat} {m : Memory}, cellsAbove b m = true →
      memRead (memWrite m a v) a' = if a' = a then v else memRead m a'
  | _, [], _ => by
    by_cases hv : v = erasedByte
    · simp [memWrite, memRead, hv]
    · simp only [memWrite, if_neg hv, memRead, eq_comm]
  | b, (c, w) :: m, hm => by
    simp only [cellsAbove, Bool.and_eq_true, decide_eq_true_eq] at hm
    have ih := memRead_memWrite_above a a' v hm.2
    have lo : a' < c + 1 → memRead m a' = erasedByte := memRead_below hm.2
    by_cases h1 : a < c
    · by_cases hv : v = erasedByte
      · rw [memWrite, if_pos h1, if_pos hv]
        by_cases h : a' = a
        · rw [if_pos h, memRead, if_neg (by omega), lo (by omega), hv]
        · rw [if_neg h]
      · rw [memWrite, if_pos h1, if_neg hv, memRead]
        simp only [eq_comm]
    · by_cases h2 : a = c
      · subst h2
        by_cases hv : v = erasedByte
        · rw [memWrite, if_neg h1, if_pos rfl, if_pos hv, memRead]
          by_cases h : a' = a
          · rw [if_pos h, lo (by omega), hv]
          · rw [if_neg h, if_neg (Ne.symm h)]
        · rw [memWrite, if_neg h1, if_pos rfl, if_neg hv, memRead, memRead]
          by_cases h : a' = a
          · rw [if_pos h, if_pos h.symm]
          · rw [if_neg h, if_neg (Ne.symm h), if_neg (Ne.symm h)]
      · rw [memWrite, if_neg h1, if_neg h2, memRead, memRead, ih]
        by_cases h : a' = a
        · rw [if_pos h, if_pos h, if_neg (by omega)]
        · rw [if_neg h, if_neg h]

/-- A read after a write, on a canonical array. -/
theorem memRead_memWrite {m : Memory} (h : Memory.wf m = true) (a a' : Nat) (v : Byte) :
    memRead (memWrite m a v) a' = if a' = a then v else memRead m a' :=
  memRead_memWrite_above a a' v h

theorem cellsAbove_memWrite (a : Nat) (v : Byte) :
    ∀ {b : Nat} {m : Memory}, b ≤ a → cellsAbove b m = true → cellsAbove b (memWrite m a v) = true
  | b, [], hb, _ => by
    by_cases hv : v = erasedByte
    · simp [memWrite, hv, cellsAbove]
    · simp [memWrite, hv, cellsAbove, hb]
  | b, (c, w) :: m, hb, hm => by
    have hm' := hm
    simp only [cellsAbove, Bool.and_eq_true, decide_eq_true_eq] at hm
    by_cases h1 : a < c
    · by_cases hv : v = erasedByte
      · rw [memWrite, if_pos h1, if_pos hv]; exact hm'
      · rw [memWrite, if_pos h1, if_neg hv]
        simp only [cellsAbove, Bool.and_eq_true, decide_eq_true_eq]
        exact ⟨⟨hb, hv⟩, ⟨by omega, hm.1.2⟩, hm.2⟩
    · by_cases h2 : a = c
      · subst h2
        by_cases hv : v = erasedByte
        · rw [memWrite, if_neg h1, if_pos rfl, if_pos hv]
          exact cellsAbove_mono (by omega) hm.2
        · rw [memWrite, if_neg h1, if_pos rfl, if_neg hv]
          simp only [cellsAbove, Bool.and_eq_true, decide_eq_true_eq]
          exact ⟨⟨hb, hv⟩, hm.2⟩
      · rw [memWrite, if_neg h1, if_neg h2]
        simp only [cellsAbove, Bool.and_eq_true, decide_eq_true_eq]
        exact ⟨hm.1, cellsAbove_memWrite a v (by omega) hm.2⟩

/-- A write keeps the canonical form. -/
theorem wf_memWrite {m : Memory} (h : Memory.wf m = true) (a : Nat) (v : Byte) : Memory.wf (memWrite m a v) = true :=
  cellsAbove_memWrite a v (Nat.zero_le a) h

theorem mem_memWrite {a : Nat} {v : Byte} {c : Host.Cell} :
    ∀ {m : Memory}, c ∈ memWrite m a v → c = (a, v) ∨ c ∈ m
  | [], h => by
    by_cases hv : v = erasedByte <;> simp_all [memWrite]
  | (b, w) :: m, h => by
    unfold memWrite at h
    split at h
    · split at h
      · exact .inr h
      · simpa using h
    · split at h
      · split at h
        · exact .inr (List.mem_cons_of_mem _ h)
        · rcases List.mem_cons.mp h with h | h
          · exact .inl h
          · exact .inr (List.mem_cons_of_mem _ h)
      · rcases List.mem_cons.mp h with h | h
        · exact .inr (by simp [h])
        · rcases mem_memWrite h with h | h
          · exact .inl h
          · exact .inr (List.mem_cons_of_mem _ h)

theorem below_memWrite {m : Memory} {n a : Nat} (h : Memory.below m n = true) (ha : a < n) (v : Byte) :
    Memory.below (memWrite m a v) n = true := by
  simp only [Memory.below, List.all_eq_true, decide_eq_true_eq] at h ⊢
  intro c hc
  rcases mem_memWrite hc with rfl | hc
  · exact ha
  · exact h c hc

/-- A read after a program (R37): the bytes of the range are ANDed with the data, the others are as before. -/
theorem memRead_memProgram (data : List Byte) :
    ∀ {m : Memory} (_ : Memory.wf m = true) (a x : Nat),
      memRead (memProgram m a data) x =
        if a ≤ x ∧ x < a + data.length then memRead m x &&& data.getD (x - a) 0 else memRead m x := by
  induction data with
  | nil => intro m _ a x; rw [memProgram, if_neg (by simp)]
  | cons d ds ih =>
    intro m h a x
    rw [memProgram, ih (wf_memWrite h _ _), memRead_memWrite h]
    simp only [List.length_cons]
    rcases Nat.lt_trichotomy x a with hx | hx | hx
    · rw [if_neg (by omega), if_neg (by omega), if_neg (by omega)]
    · subst hx
      rw [if_neg (by omega), if_pos rfl, if_pos (by omega)]; simp
    · by_cases hr : x < a + (ds.length + 1)
      · rw [if_pos (by omega), if_neg (by omega), if_pos (by omega)]
        have : x - a = (x - (a + 1)) + 1 := by omega
        rw [this, List.getD_cons_succ]
      · rw [if_neg (by omega), if_neg (by omega), if_neg (by omega)]

theorem wf_memProgram (data : List Byte) :
    ∀ {m : Memory} (_ : Memory.wf m = true) (a : Nat), Memory.wf (memProgram m a data) = true := by
  induction data with
  | nil => intro m h a; exact h
  | cons d ds ih => intro m h a; exact ih (wf_memWrite h _ _) _

theorem below_memProgram (data : List Byte) {n : Nat} :
    ∀ {m : Memory} (_ : Memory.below m n = true) (a : Nat), a + data.length ≤ n →
      Memory.below (memProgram m a data) n = true := by
  induction data with
  | nil => intro m h a _; exact h
  | cons d ds ih =>
    intro m h a ha
    simp only [List.length_cons] at ha
    exact ih (below_memWrite h (by omega) _) _ (by omega)

/-- A read after an erase (R37): 0xFF in the range, as before outside it. -/
theorem memRead_memErase (m : Memory) (lo hi x : Nat) :
    memRead (memErase m lo hi) x = if lo ≤ x ∧ x < hi then erasedByte else memRead m x := by
  induction m with
  | nil => simp [memErase, memRead]
  | cons c m ih =>
    obtain ⟨c, w⟩ := c
    simp only [memErase] at ih
    by_cases hc : lo ≤ c ∧ c < hi
    · rw [memErase, List.filter_cons_of_neg (by simp [hc]), ih, memRead]
      by_cases hx : lo ≤ x ∧ x < hi
      · rw [if_pos hx, if_pos hx]
      · rw [if_neg hx, if_neg hx, if_neg (by rintro rfl; exact hx hc)]
    · rw [memErase, List.filter_cons_of_pos (by simp only [Bool.not_eq_true', Bool.and_eq_false_iff, decide_eq_false_iff_not]; tauto), memRead, memRead, ih]
      by_cases hx : c = x
      · subst hx; rw [if_pos rfl, if_neg hc, if_pos rfl]
      · rw [if_neg hx, if_neg hx]

theorem cellsAbove_memErase (lo hi : Nat) :
    ∀ {b : Nat} {m : Memory}, cellsAbove b m = true → cellsAbove b (memErase m lo hi) = true
  | _, [], _ => rfl
  | b, (c, w) :: m, hm => by
    simp only [cellsAbove, Bool.and_eq_true, decide_eq_true_eq] at hm
    have ih := cellsAbove_memErase lo hi hm.2
    by_cases hc : lo ≤ c ∧ c < hi
    · rw [memErase, List.filter_cons_of_neg (by simp [hc])]
      exact cellsAbove_mono (by omega) ih
    · rw [memErase, List.filter_cons_of_pos (by simp only [Bool.not_eq_true', Bool.and_eq_false_iff, decide_eq_false_iff_not]; tauto)]
      simp only [cellsAbove, Bool.and_eq_true, decide_eq_true_eq]
      exact ⟨hm.1, ih⟩

theorem wf_memErase {m : Memory} (h : Memory.wf m = true) (lo hi : Nat) : Memory.wf (memErase m lo hi) = true :=
  cellsAbove_memErase lo hi h

theorem below_memErase {m : Memory} {n : Nat} (h : Memory.below m n = true) (lo hi : Nat) :
    Memory.below (memErase m lo hi) n = true := by
  simp only [Memory.below, memErase, List.all_eq_true, List.mem_filter] at h ⊢
  exact fun c hc => h c hc.1

/-- A read after a fill: the given bytes in the range, as before outside it. -/
theorem memRead_memFill (f : Nat → Byte) :
    ∀ (n : Nat) {m : Memory} (_ : Memory.wf m = true) (lo x : Nat),
      memRead (memFill f m lo n) x = if lo ≤ x ∧ x < lo + n then f x else memRead m x := by
  intro n
  induction n with
  | zero => intro m _ lo x; rw [memFill, if_neg (by omega)]
  | succ n ih =>
    intro m h lo x
    rw [memFill, ih (wf_memWrite h _ _), memRead_memWrite h]
    rcases Nat.lt_trichotomy x lo with hx | hx | hx
    · rw [if_neg (by omega), if_neg (by omega), if_neg (by omega)]
    · subst hx; rw [if_neg (by omega), if_pos rfl, if_pos (by omega)]
    · by_cases hr : x < lo + (n + 1)
      · rw [if_pos (by omega), if_pos (by omega)]
      · rw [if_neg (by omega), if_neg (by omega), if_neg (by omega)]

theorem wf_memFill (f : Nat → Byte) :
    ∀ (n : Nat) {m : Memory} (_ : Memory.wf m = true) (lo : Nat), Memory.wf (memFill f m lo n) = true := by
  intro n
  induction n with
  | zero => intro m h lo; exact h
  | succ n ih => intro m h lo; exact ih (wf_memWrite h _ _) _

theorem below_memFill (f : Nat → Byte) {b : Nat} :
    ∀ (n : Nat) {m : Memory} (_ : Memory.below m b = true) (lo : Nat), lo + n ≤ b →
      Memory.below (memFill f m lo n) b = true := by
  intro n
  induction n with
  | zero => intro m h lo _; exact h
  | succ n ih => intro m h lo hb; exact ih (below_memWrite h (by omega) _) _ (by omega)

@[simp] theorem readBytes_length (m : Memory) (size lo n : Nat) : (readBytes m size lo n).length = n := by
  simp [readBytes]

@[simp] theorem freeBytes_length (f : Nat → Nat → Byte) (k n : Nat) : (freeBytes f k n).length = n := by
  simp [freeBytes]

/-- A range is free of protection exactly when none of its addresses is protected (R139). -/
theorem rangeProtected_iff (p : Protection) (lo hi : Nat) :
    rangeProtected p lo hi = true ↔ ∃ x, lo ≤ x ∧ x < hi ∧ protAt p x = true := by
  simp only [rangeProtected, protAt, List.any_eq_true, decide_eq_true_eq, Bool.and_eq_true]
  constructor
  · rintro ⟨r, hr, h⟩
    exact ⟨max r.1 lo, by omega, by omega, r, hr, by omega, by omega⟩
  · rintro ⟨x, h1, h2, r, hr, h3, h4⟩
    exact ⟨r, hr, by omega⟩

@[simp] theorem rangeProtected_nil (lo hi : Nat) : rangeProtected [] lo hi = false := rfl

@[simp] theorem protAt_nil (x : Nat) : protAt [] x = false := rfl

end Sys2Proof.Machine
end

