-- ==== Sys2Proof/Laws/Device.lean ====
section
/-! SUPPORT. What the device can do at a frame: the status byte's bits, the three ways a frame is taken (R120), what no
frame changes, and that every frame and every completion keeps the device sound. -/

namespace Sys2Proof.Machine

/-! ### The status byte -/

theorem testBit_statusByte (k i : Nat) (d : Dev) :
    (statusByte k d).getLsbD i =
      if i < 1 then d.busy else if i < 2 then d.wel else if i < 6 then d.aux.getLsbD (i - 2)
      else (Config.freeStatusHi k).getLsbD (i - 6) := by
  unfold statusByte
  simp only [BitVec.getLsbD_append, BitVec.getLsbD_ofBool]
  by_cases h0 : i < 1
  · have : i = 0 := by omega
    subst this; simp
  · rw [if_neg h0, if_neg h0]
    by_cases h1 : i < 2
    · have : i = 1 := by omega
      subst this; simp
    · rw [if_neg (by omega), if_neg h1]
      by_cases h2 : i < 6
      · rw [if_pos (by omega), if_pos h2]; congr 1
      · rw [if_neg (by omega), if_neg h2]; congr 1

@[simp] theorem byteBusy_statusByte (k : Nat) (d : Dev) : byteBusy (statusByte k d) = d.busy := by
  rw [byteBusy, testBit_statusByte, if_pos (by omega)]

@[simp] theorem byteWel_statusByte (k : Nat) (d : Dev) : byteWel (statusByte k d) = d.wel := by
  rw [byteWel, testBit_statusByte, if_neg (by omega), if_pos (by omega)]

/-! ### The three ways a frame is taken (R120) -/

/-- A frame the device takes to its own rule. -/
theorem devFrame_accepted {p : Params} {k : Nat} {i : Instr} {d : Dev} (h : Accepts d i) (hw : i.wf p = true) :
    devFrame p k i d = ownRule p k d.arm i { d with arm := isRsten i } := by
  obtain ⟨h1, h2⟩ := h
  unfold devFrame
  rw [if_neg (by rcases h1 with h | h <;> simp [h]), if_neg (by rcases h2 with h | h <;> simp [h]), if_pos hw]

/-- A frame the device ignores: only `DEV.ARM` changes and the bytes returned are free. -/
theorem devFrame_ignored {p : Params} {k : Nat} {i : Instr} {d : Dev} (h : ¬ Accepts d i) :
    devFrame p k i d = ignored k (received i) { d with arm := isRsten i } := by
  unfold devFrame
  simp only [Accepts, not_and_or, not_or, Bool.not_eq_true, Bool.not_eq_false] at h
  rcases h with h | h
  · rw [if_pos (by simp [h])]
  · by_cases hd : (d.dpd && !isRdpd i) = true
    · rw [if_pos hd]
    · rw [if_neg hd, if_pos (by simp [h])]

/-! ### What no frame changes -/

/-- The read-only parts of the device (R34, R41, R43). -/
structure SameParts (d e : Dev) : Prop where
  aux  : e.aux = d.aux
  id   : e.id = d.id
  sfdp : e.sfdp = d.sfdp
  sid  : e.sid = d.sid

theorem SameParts.refl (d : Dev) : SameParts d d := ⟨rfl, rfl, rfl, rfl⟩

theorem SameParts.trans {d e f : Dev} (h : SameParts d e) (g : SameParts e f) : SameParts d f :=
  ⟨g.aux.trans h.aux, g.id.trans h.id, g.sfdp.trans h.sfdp, g.sid.trans h.sid⟩

theorem engineComplete_sameParts (d : Dev) : SameParts d (engineComplete d) := by
  unfold engineComplete; split <;> exact ⟨rfl, rfl, rfl, rfl⟩

/-- The completion of what is in flight writes its target and nothing else (R37). -/
theorem memRead_engineComplete {d : Dev} (hw : Memory.wf d.mem = true) {x : Nat} (h : ¬ pendTarget d.pend x) :
    memRead (engineComplete d).mem x = memRead d.mem x := by
  unfold engineComplete
  split
  · rfl
  · next a data hp =>
    rw [hp] at h; simp only [pendTarget, not_and, not_lt] at h
    rw [memRead_memProgram _ hw]
    split_ifs with hh
    · exact absurd (h hh.1) (by omega)
    · rfl
  · next lo hi hp =>
    rw [hp] at h; simp only [pendTarget, not_and, not_lt] at h
    rw [memRead_memErase]
    split_ifs with hh
    · exact absurd (h hh.1) (by omega)
    · rfl

/-- The abort of what is in flight leaves its target unspecified and nothing else (R46). -/
theorem memRead_abortedMem (k : Nat) {d : Dev} (hw : Memory.wf d.mem = true) {x : Nat} (h : ¬ pendTarget d.pend x) :
    memRead (abortedMem k d) x = memRead d.mem x := by
  unfold abortedMem
  split
  · rfl
  · next a data hp =>
    rw [hp] at h; simp only [pendTarget, not_and, not_lt] at h
    rw [memRead_memFill _ _ hw]
    split_ifs with hh
    · exact absurd (h hh.1) (by omega)
    · rfl
  · next lo hi hp =>
    rw [hp] at h; simp only [pendTarget, not_and, not_lt] at h
    rw [memRead_memFill _ _ hw]
    split_ifs with hh
    · exact absurd (h hh.1) (by omega)
    · rfl

/-- Block protection after a reset (R38). -/
theorem protAt_resetProtection (p : Params) {x : Nat} (h : x < p.deviceSize) :
    protAt (resetProtection p) x = p.protAfterReset := by
  unfold resetProtection
  cases p.protAfterReset <;> simp [protAt, h]

@[simp] theorem engineComplete_dpd (d : Dev) : (engineComplete d).dpd = d.dpd := by unfold engineComplete; split <;> rfl
@[simp] theorem engineComplete_arm (d : Dev) : (engineComplete d).arm = d.arm := by unfold engineComplete; split <;> rfl
@[simp] theorem engineComplete_ac (d : Dev) : (engineComplete d).ac = d.ac := by unfold engineComplete; split <;> rfl
@[simp] theorem engineComplete_cr (d : Dev) : (engineComplete d).cr = d.cr := by unfold engineComplete; split <;> rfl
@[simp] theorem engineComplete_prot (d : Dev) : (engineComplete d).prot = d.prot := by unfold engineComplete; split <;> rfl
@[simp] theorem engineComplete_pend (d : Dev) : (engineComplete d).pend = .none := by
  unfold engineComplete; split <;> first | assumption | rfl

theorem startErase_sameParts (k lo hi : Nat) (d : Dev) : SameParts d (startErase k lo hi d).dev := by
  unfold startErase; split_ifs <;> exact ⟨rfl, rfl, rfl, rfl⟩

theorem ownRule_sameParts (p : Params) (k : Nat) (armed : Bool) (i : Instr) (d : Dev) :
    SameParts d (ownRule p k armed i d).dev := by
  cases i <;>
    simp only [ownRule, devNop, devRsten, devRst, devRdsr, devWrsr, devRdcr, devRead, devHsread, devWren, devWrdi, devSe,
      devBe, devCe, devPp, devRdid, devSfdp, devRbpr, devUlbpr, devRsid, devDpd, devRdpd, answer] <;>
    (try split_ifs) <;> first
      | exact ⟨rfl, rfl, rfl, rfl⟩
      | exact startErase_sameParts _ _ _ _

theorem devFrame_sameParts (p : Params) (k : Nat) (i : Instr) (d : Dev) : SameParts d (devFrame p k i d).dev := by
  unfold devFrame ignored answer
  dsimp only
  split_ifs
  · exact ⟨rfl, rfl, rfl, rfl⟩
  · exact ⟨rfl, rfl, rfl, rfl⟩
  · exact (⟨rfl, rfl, rfl, rfl⟩ : SameParts d { d with arm := isRsten i }).trans (ownRule_sameParts ..)
  · exact ⟨rfl, rfl, rfl, rfl⟩

theorem devConsume_sameParts (p : Params) (k : Nat) (tx : List Byte) (n : Nat) (d : Dev) :
    SameParts d (devConsume p k tx n d).dev := by
  unfold devConsume
  split
  · exact devFrame_sameParts ..
  · exact ⟨rfl, rfl, rfl, rfl⟩

theorem devTakes_sameParts (p : Params) (k : Nat) (ab : Bool) (tx : List Byte) (n : Nat) (d : Dev) :
    SameParts d (devTakes p k ab tx n d).dev := by
  unfold devTakes
  split_ifs
  · exact SameParts.refl d
  · exact devConsume_sameParts ..

theorem devDisturb_sameParts (p : Params) (k : Nat) (i : Instr) (d : Dev) : SameParts d (devDisturb p k i d) := by
  cases i <;> exact ⟨rfl, rfl, rfl, rfl⟩

theorem devReached_sameParts (p : Params) (k : Nat) (tx : List Byte) (n : Nat) (r : Option Nat) (d : Dev) :
    SameParts d (devReached p k tx n r d) := by
  cases r
  · exact SameParts.refl d
  · exact devConsume_sameParts ..

theorem devLossy_sameParts (p : Params) (k : Nat) (tx : List Byte) (n : Nat) (d : Dev) :
    SameParts d (devLossy p k tx n d) := by
  have h := devReached_sameParts p k tx n (Config.freeLoss k).reached d
  unfold devLossy
  dsimp only
  split_ifs
  · split
    · exact h.trans (devDisturb_sameParts ..)
    · exact h
  · exact h

theorem devAfterFailure_sameParts (p : Params) (k : Nat) (ab : Bool) (tx : List Byte) (n : Nat) (d : Dev) :
    SameParts d (devAfterFailure p k ab tx n d) := by
  unfold devAfterFailure
  split_ifs
  · exact SameParts.refl d
  · exact devLossy_sameParts ..

/-! ### The constraints on the parameters, one by one -/

/-- The constraints of R7 as facts. -/
structure ParamFacts (p : Params) : Prop where
  sector_pos  : 0 < p.sectorSize
  sector_page : p.sectorSize % pageSize = 0
  sector_div  : 2 ^ 24 % p.sectorSize = 0
  size_pos    : 0 < p.deviceSize
  size_sector : p.deviceSize % p.sectorSize = 0
  size_le     : p.deviceSize ≤ 2 ^ 24
  slice_pos   : 0 < p.verifySlice
  slice_div   : p.sectorSize % p.verifySlice = 0
  distinct    : p.ops.distinct = true

theorem paramFacts {p : Params} (h : validParams p = true) : ParamFacts p := by
  simp only [validParams, Bool.and_eq_true, decide_eq_true_eq] at h
  obtain ⟨⟨⟨⟨⟨⟨⟨⟨h1, h2⟩, h3⟩, h4⟩, h5⟩, h6⟩, h7⟩, h8⟩, h9⟩ := h
  exact ⟨h1, h2, h3, h4, h5, h6, h7, h8, h9⟩

theorem ParamFacts.size_page {p : Params} (h : ParamFacts p) : p.deviceSize % pageSize = 0 := by
  obtain ⟨a, ha⟩ := Nat.dvd_of_mod_eq_zero h.sector_page
  obtain ⟨b, hb⟩ := Nat.dvd_of_mod_eq_zero h.size_sector
  rw [hb, ha, Nat.mul_assoc]
  exact Nat.mul_mod_right _ _

theorem deviceAddr_lt {p : Params} (h : 0 < p.deviceSize) (a : Addr24) : deviceAddr p a < p.deviceSize :=
  Nat.mod_lt _ h

/-- A piece that starts at a multiple of a unit that divides the device, or stays inside one unit, ends in the device. -/
theorem unit_end_le {n u a len : Nat} (hd : n % u = 0) (ha : a < n) (hl : a % u + len ≤ u) : a + len ≤ n := by
  obtain ⟨q, rfl⟩ := Nat.dvd_of_mod_eq_zero hd
  have h1 := Nat.div_add_mod a u
  have h2 : a / u < q := Nat.div_lt_of_lt_mul ha
  have h3 : u * (a / u) + u ≤ u * q := by
    calc u * (a / u) + u = u * (a / u + 1) := by ring
      _ ≤ u * q := Nat.mul_le_mul_left u h2
  omega

/-! ### Every frame and every completion keeps the device sound -/

theorem engineComplete_devOk {p : Params} {d : Dev} (h : DevOk p d) : DevOk p (engineComplete d) := by
  obtain ⟨hb, hp, hw, hi⟩ := h
  unfold engineComplete
  cases hd : d.pend with
  | none => exact ⟨hb, hp, hw, hi⟩
  | program a data =>
    rw [hd] at hp
    exact ⟨by simp, trivial, wf_memProgram data hw a, below_memProgram data hi a hp.2.2⟩
  | erase lo hi' => exact ⟨by simp, trivial, wf_memErase hw lo hi', below_memErase hi lo hi'⟩

theorem softwareReset_devOk {p : Params} {d : Dev} (k : Nat) (h : DevOk p d) : DevOk p (softwareReset p k d) := by
  obtain ⟨hb, hp, hw, hi⟩ := h
  unfold softwareReset abortedMem
  cases hd : d.pend with
  | none => exact ⟨by simp, trivial, hw, hi⟩
  | program a data =>
    rw [hd] at hp
    exact ⟨by simp, trivial, wf_memFill _ _ hw a, below_memFill _ _ hi a hp.2.2⟩
  | erase lo hi' =>
    rw [hd] at hp
    refine ⟨by simp, trivial, wf_memFill _ _ hw lo, ?_⟩
    by_cases hl : lo ≤ hi'
    · exact below_memFill _ _ hi lo (by have : hi' ≤ p.deviceSize := hp; omega)
    · have : hi' - lo = 0 := by omega
      simpa [this, memFill] using hi

theorem powerOnDev_devOk {p : Params} {d : Dev} (k : Nat) (h : DevOk p d) : DevOk p (powerOnDev p k d) :=
  ⟨by simp [powerOnDev], trivial, h.mem_wf, h.mem_in⟩

theorem startErase_devOk {p : Params} {d : Dev} (k lo : Nat) {hi : Nat} (hh : hi ≤ p.deviceSize) (h : DevOk p d) :
    DevOk p (startErase k lo hi d).dev := by
  unfold startErase
  split_ifs
  · exact ⟨h.busy_iff, h.pend_ok, h.mem_wf, h.mem_in⟩
  · exact ⟨by simp [answer], hh, h.mem_wf, h.mem_in⟩
  · exact h

theorem ownRule_devOk {p : Params} (hp : ParamFacts p) {d : Dev} (k : Nat) (armed : Bool) {i : Instr}
    (hw : i.wf p = true) (h : DevOk p d) : DevOk p (ownRule p k armed i d).dev := by
  cases i <;> try exact h
  case rst =>
    simp only [ownRule, devRst]
    split_ifs
    · exact softwareReset_devOk k h
    · exact h
  case wrsr =>
    simp only [ownRule, devWrsr]
    split_ifs
    · exact ⟨h.busy_iff, h.pend_ok, h.mem_wf, h.mem_in⟩
    · exact h
  case read => exact ⟨h.busy_iff, h.pend_ok, h.mem_wf, h.mem_in⟩
  case hsread => exact ⟨h.busy_iff, h.pend_ok, h.mem_wf, h.mem_in⟩
  case wren => exact ⟨h.busy_iff, h.pend_ok, h.mem_wf, h.mem_in⟩
  case wrdi => exact ⟨h.busy_iff, h.pend_ok, h.mem_wf, h.mem_in⟩
  case dpd => exact ⟨h.busy_iff, h.pend_ok, h.mem_wf, h.mem_in⟩
  case rdpd => exact ⟨h.busy_iff, h.pend_ok, h.mem_wf, h.mem_in⟩
  case rbpr =>
    simp only [ownRule, devRbpr]
    split_ifs <;> exact h
  case ulbpr =>
    simp only [ownRule, devUlbpr]
    split_ifs
    · exact ⟨h.busy_iff, h.pend_ok, h.mem_wf, h.mem_in⟩
    · exact h
  case se a =>
    simp only [ownRule, devSe]
    split_ifs with hc
    · exact h
    · by_cases hwel : d.wel = true
      · simp only [hwel, Bool.true_and, decide_eq_true_eq, not_not] at hc
        exact startErase_devOk k _
          (unit_end_le hp.size_sector (deviceAddr_lt hp.size_pos a) (by omega)) h
      · simpa [startErase, hwel, answer] using h
  case be a =>
    exact startErase_devOk k _ (by simp [blockRange]) h
  case ce => exact startErase_devOk k 0 (Nat.le_refl _) h
  case pp a data =>
    simp only [Instr.wf, Bool.and_eq_true, decide_eq_true_eq] at hw
    simp only [ownRule, devPp]
    split_ifs with h1 h2 h3
    · exact h
    · exact ⟨h.busy_iff, h.pend_ok, h.mem_wf, h.mem_in⟩
    · have h2' : deviceAddr p a % pageSize + data.length ≤ pageSize := by omega
      exact ⟨by simp [answer], ⟨hw.1, h2', unit_end_le hp.size_page (deviceAddr_lt hp.size_pos a) h2'⟩,
        h.mem_wf, h.mem_in⟩
    · exact h

theorem devFrame_devOk {p : Params} (hp : ParamFacts p) {d : Dev} (k : Nat) (i : Instr) (h : DevOk p d) :
    DevOk p (devFrame p k i d).dev := by
  have h1 : DevOk p { d with arm := isRsten i } := ⟨h.busy_iff, h.pend_ok, h.mem_wf, h.mem_in⟩
  unfold devFrame
  dsimp only
  split_ifs with _ _ hw
  · exact h1
  · exact h1
  · exact ownRule_devOk hp k d.arm hw h1
  · exact h1

theorem devConsume_devOk {p : Params} (hp : ParamFacts p) {d : Dev} (k : Nat) (tx : List Byte) (n : Nat)
    (h : DevOk p d) : DevOk p (devConsume p k tx n d).dev := by
  unfold devConsume
  split
  · exact devFrame_devOk hp k _ h
  · exact ⟨h.busy_iff, h.pend_ok, h.mem_wf, h.mem_in⟩

/-- A fill inside the array keeps the device sound. -/
theorem fill_devOk {p : Params} {d : Dev} (f : Nat → Byte) (w : Bool) {lo n : Nat} (hn : lo + n ≤ p.deviceSize)
    (h : DevOk p d) : DevOk p { d with wel := w, mem := memFill f d.mem lo n } :=
  ⟨h.busy_iff, h.pend_ok, wf_memFill f n h.mem_wf lo, below_memFill f n h.mem_in lo hn⟩

theorem devDisturb_devOk {p : Params} (hp : ParamFacts p) {d : Dev} (k : Nat) (i : Instr) (h : DevOk p d) :
    DevOk p (devDisturb p k i d) := by
  cases i
  case pp a _ =>
    have hl := deviceAddr_lt hp.size_pos a
    have hm : pageStart (deviceAddr p a) % pageSize = 0 := Nat.mod_eq_zero_of_dvd (Nat.dvd_sub_mod _)
    exact fill_devOk _ _ (unit_end_le hp.size_page (by simp only [pageStart]; omega) (by omega)) h
  case se a =>
    have hl := deviceAddr_lt hp.size_pos a
    have hm : sectorStart p (deviceAddr p a) % p.sectorSize = 0 := Nat.mod_eq_zero_of_dvd (Nat.dvd_sub_mod _)
    exact fill_devOk _ _ (unit_end_le hp.size_sector (by simp only [sectorStart]; omega) (by omega)) h
  case wrsr => exact ⟨h.busy_iff, h.pend_ok, h.mem_wf, h.mem_in⟩
  case ulbpr => exact ⟨h.busy_iff, h.pend_ok, h.mem_wf, h.mem_in⟩
  all_goals exact h

theorem devReached_devOk {p : Params} (hp : ParamFacts p) {d : Dev} (k : Nat) (tx : List Byte) (n : Nat)
    (r : Option Nat) (h : DevOk p d) : DevOk p (devReached p k tx n r d) := by
  cases r
  · exact h
  · exact devConsume_devOk hp k _ _ h

theorem devLossy_devOk {p : Params} (hp : ParamFacts p) {d : Dev} (k : Nat) (tx : List Byte) (n : Nat)
    (h : DevOk p d) : DevOk p (devLossy p k tx n d) := by
  have h1 := devReached_devOk hp k tx n (Config.freeLoss k).reached h
  unfold devLossy
  dsimp only
  split_ifs
  · split
    · exact devDisturb_devOk hp k _ h1
    · exact h1
  · exact h1

theorem devTakes_devOk {p : Params} (hp : ParamFacts p) {d : Dev} (k : Nat) (ab : Bool) (tx : List Byte) (n : Nat)
    (h : DevOk p d) : DevOk p (devTakes p k ab tx n d).dev := by
  unfold devTakes
  split_ifs
  · exact h
  · exact devConsume_devOk hp k _ _ h

theorem devAfterFailure_devOk {p : Params} (hp : ParamFacts p) {d : Dev} (k : Nat) (ab : Bool) (tx : List Byte) (n : Nat)
    (h : DevOk p d) : DevOk p (devAfterFailure p k ab tx n d) := by
  unfold devAfterFailure
  split_ifs
  · exact h
  · exact devLossy_devOk hp k _ _ h

end Sys2Proof.Machine
end

