-- ==== Sys2Proof/Laws/State.lean ====
section
/-! SUPPORT. What each update of the state does to each field, so that no proof unfolds a record update. -/

namespace Sys2Proof.Machine

variable (s : State)

/-! ### State.drawn -/

@[simp] theorem State.drawn_cfg : (s.drawn).cfg = s.cfg := rfl
@[simp] theorem State.drawn_op : (s.drawn).seq.op = s.seq.op := rfl
@[simp] theorem State.drawn_ph : (s.drawn).seq.ph = s.seq.ph := rfl
@[simp] theorem State.drawn_sel : (s.drawn).seq.sel = s.seq.sel := rfl
@[simp] theorem State.drawn_st : (s.drawn).seq.st = s.seq.st := rfl
@[simp] theorem State.drawn_ctx : (s.drawn).seq.ctx = s.seq.ctx := rfl
@[simp] theorem State.drawn_dev : (s.drawn).dev = s.dev := rfl
@[simp] theorem State.drawn_clock : (s.drawn).clock = s.clock := rfl
@[simp] theorem State.drawn_host : (s.drawn).host = s.host := rfl
@[simp] theorem State.drawn_trace : (s.drawn).trace = s.trace := rfl
@[simp] theorem State.drawn_phases : (s.drawn).phases = s.phases := rfl
@[simp] theorem State.drawn_inbox : (s.drawn).inbox = s.inbox := rfl
@[simp] theorem State.drawn_env : (s.drawn).env = s.env := rfl
@[simp] theorem State.drawn_rest : (s.drawn).rest = s.rest := rfl
@[simp] theorem State.drawn_draw : (s.drawn).draw = s.draw + 1 := rfl

/-! ### State.withDev -/

@[simp] theorem State.withDev_cfg (d : Dev) : (s.withDev d).cfg = s.cfg := rfl
@[simp] theorem State.withDev_op (d : Dev) : (s.withDev d).seq.op = s.seq.op := rfl
@[simp] theorem State.withDev_ph (d : Dev) : (s.withDev d).seq.ph = s.seq.ph := rfl
@[simp] theorem State.withDev_sel (d : Dev) : (s.withDev d).seq.sel = s.seq.sel := rfl
@[simp] theorem State.withDev_st (d : Dev) : (s.withDev d).seq.st = s.seq.st := rfl
@[simp] theorem State.withDev_ctx (d : Dev) : (s.withDev d).seq.ctx = s.seq.ctx := rfl
@[simp] theorem State.withDev_dev (d : Dev) : (s.withDev d).dev = d := rfl
@[simp] theorem State.withDev_clock (d : Dev) : (s.withDev d).clock = s.clock := rfl
@[simp] theorem State.withDev_host (d : Dev) : (s.withDev d).host = s.host := rfl
@[simp] theorem State.withDev_trace (d : Dev) : (s.withDev d).trace = s.trace := rfl
@[simp] theorem State.withDev_phases (d : Dev) : (s.withDev d).phases = s.phases := rfl
@[simp] theorem State.withDev_inbox (d : Dev) : (s.withDev d).inbox = s.inbox := rfl
@[simp] theorem State.withDev_env (d : Dev) : (s.withDev d).env = s.env := rfl
@[simp] theorem State.withDev_rest (d : Dev) : (s.withDev d).rest = s.rest := rfl
@[simp] theorem State.withDev_draw (d : Dev) : (s.withDev d).draw = s.draw := rfl

/-! ### State.withCtx -/

@[simp] theorem State.withCtx_cfg (c : Context) : (s.withCtx c).cfg = s.cfg := rfl
@[simp] theorem State.withCtx_op (c : Context) : (s.withCtx c).seq.op = s.seq.op := rfl
@[simp] theorem State.withCtx_ph (c : Context) : (s.withCtx c).seq.ph = s.seq.ph := rfl
@[simp] theorem State.withCtx_sel (c : Context) : (s.withCtx c).seq.sel = s.seq.sel := rfl
@[simp] theorem State.withCtx_st (c : Context) : (s.withCtx c).seq.st = s.seq.st := rfl
@[simp] theorem State.withCtx_ctx (c : Context) : (s.withCtx c).seq.ctx = c := rfl
@[simp] theorem State.withCtx_dev (c : Context) : (s.withCtx c).dev = s.dev := rfl
@[simp] theorem State.withCtx_clock (c : Context) : (s.withCtx c).clock = s.clock := rfl
@[simp] theorem State.withCtx_host (c : Context) : (s.withCtx c).host = s.host := rfl
@[simp] theorem State.withCtx_trace (c : Context) : (s.withCtx c).trace = s.trace := rfl
@[simp] theorem State.withCtx_phases (c : Context) : (s.withCtx c).phases = s.phases := rfl
@[simp] theorem State.withCtx_inbox (c : Context) : (s.withCtx c).inbox = s.inbox := rfl
@[simp] theorem State.withCtx_env (c : Context) : (s.withCtx c).env = s.env := rfl
@[simp] theorem State.withCtx_rest (c : Context) : (s.withCtx c).rest = s.rest := rfl
@[simp] theorem State.withCtx_draw (c : Context) : (s.withCtx c).draw = s.draw := rfl

/-! ### State.setPhase -/

@[simp] theorem State.setPhase_cfg (p : Phase) : (s.setPhase p).cfg = s.cfg := rfl
@[simp] theorem State.setPhase_op (p : Phase) : (s.setPhase p).seq.op = s.seq.op := rfl
@[simp] theorem State.setPhase_ph (p : Phase) : (s.setPhase p).seq.ph = p := rfl
@[simp] theorem State.setPhase_sel (p : Phase) : (s.setPhase p).seq.sel = s.seq.sel := rfl
@[simp] theorem State.setPhase_st (p : Phase) : (s.setPhase p).seq.st = s.seq.st := rfl
@[simp] theorem State.setPhase_ctx (p : Phase) : (s.setPhase p).seq.ctx = s.seq.ctx := rfl
@[simp] theorem State.setPhase_dev (p : Phase) : (s.setPhase p).dev = s.dev := rfl
@[simp] theorem State.setPhase_clock (p : Phase) : (s.setPhase p).clock = s.clock := rfl
@[simp] theorem State.setPhase_host (p : Phase) : (s.setPhase p).host = s.host := rfl
@[simp] theorem State.setPhase_trace (p : Phase) : (s.setPhase p).trace = s.trace := rfl
@[simp] theorem State.setPhase_phases (p : Phase) : (s.setPhase p).phases = s.phases ++ [p] := rfl
@[simp] theorem State.setPhase_inbox (p : Phase) : (s.setPhase p).inbox = s.inbox := rfl
@[simp] theorem State.setPhase_env (p : Phase) : (s.setPhase p).env = s.env := rfl
@[simp] theorem State.setPhase_rest (p : Phase) : (s.setPhase p).rest = s.rest := rfl
@[simp] theorem State.setPhase_draw (p : Phase) : (s.setPhase p).draw = s.draw := rfl

/-! ### State.setSel -/

@[simp] theorem State.setSel_cfg (b : Bool) : (s.setSel b).cfg = s.cfg := rfl
@[simp] theorem State.setSel_op (b : Bool) : (s.setSel b).seq.op = s.seq.op := rfl
@[simp] theorem State.setSel_ph (b : Bool) : (s.setSel b).seq.ph = s.seq.ph := rfl
@[simp] theorem State.setSel_sel (b : Bool) : (s.setSel b).seq.sel = b := rfl
@[simp] theorem State.setSel_st (b : Bool) : (s.setSel b).seq.st = s.seq.st := rfl
@[simp] theorem State.setSel_ctx (b : Bool) : (s.setSel b).seq.ctx = s.seq.ctx := rfl
@[simp] theorem State.setSel_dev (b : Bool) : (s.setSel b).dev = s.dev := rfl
@[simp] theorem State.setSel_clock (b : Bool) : (s.setSel b).clock = s.clock := rfl
@[simp] theorem State.setSel_host (b : Bool) : (s.setSel b).host = s.host := rfl
@[simp] theorem State.setSel_trace (b : Bool) : (s.setSel b).trace = s.trace := rfl
@[simp] theorem State.setSel_phases (b : Bool) : (s.setSel b).phases = s.phases := rfl
@[simp] theorem State.setSel_inbox (b : Bool) : (s.setSel b).inbox = s.inbox := rfl
@[simp] theorem State.setSel_env (b : Bool) : (s.setSel b).env = s.env := rfl
@[simp] theorem State.setSel_rest (b : Bool) : (s.setSel b).rest = s.rest := rfl
@[simp] theorem State.setSel_draw (b : Bool) : (s.setSel b).draw = s.draw := rfl

/-! ### State.deliver -/

@[simp] theorem State.deliver_cfg (bytes : List Byte) : (s.deliver bytes).cfg = s.cfg := rfl
@[simp] theorem State.deliver_op (bytes : List Byte) : (s.deliver bytes).seq.op = s.seq.op := rfl
@[simp] theorem State.deliver_ph (bytes : List Byte) : (s.deliver bytes).seq.ph = s.seq.ph := rfl
@[simp] theorem State.deliver_sel (bytes : List Byte) : (s.deliver bytes).seq.sel = s.seq.sel := rfl
@[simp] theorem State.deliver_st (bytes : List Byte) : (s.deliver bytes).seq.st = s.seq.st := rfl
@[simp] theorem State.deliver_ctx (bytes : List Byte) : (s.deliver bytes).seq.ctx = s.seq.ctx := rfl
@[simp] theorem State.deliver_dev (bytes : List Byte) : (s.deliver bytes).dev = s.dev := rfl
@[simp] theorem State.deliver_clock (bytes : List Byte) : (s.deliver bytes).clock = s.clock := rfl
@[simp] theorem State.deliver_host (bytes : List Byte) : (s.deliver bytes).host = { s.host with out := bytes } := rfl
@[simp] theorem State.deliver_trace (bytes : List Byte) : (s.deliver bytes).trace = s.trace := rfl
@[simp] theorem State.deliver_phases (bytes : List Byte) : (s.deliver bytes).phases = s.phases := rfl
@[simp] theorem State.deliver_inbox (bytes : List Byte) : (s.deliver bytes).inbox = s.inbox := rfl
@[simp] theorem State.deliver_env (bytes : List Byte) : (s.deliver bytes).env = s.env := rfl
@[simp] theorem State.deliver_rest (bytes : List Byte) : (s.deliver bytes).rest = s.rest := rfl
@[simp] theorem State.deliver_draw (bytes : List Byte) : (s.deliver bytes).draw = s.draw := rfl

/-! ### State.record -/

@[simp] theorem State.record_cfg (r : FrameRec) : (s.record r).cfg = s.cfg := rfl
@[simp] theorem State.record_op (r : FrameRec) : (s.record r).seq.op = s.seq.op := rfl
@[simp] theorem State.record_ph (r : FrameRec) : (s.record r).seq.ph = s.seq.ph := rfl
@[simp] theorem State.record_sel (r : FrameRec) : (s.record r).seq.sel = s.seq.sel := rfl
@[simp] theorem State.record_st (r : FrameRec) : (s.record r).seq.st = s.seq.st := rfl
@[simp] theorem State.record_ctx (r : FrameRec) : (s.record r).seq.ctx = s.seq.ctx := rfl
@[simp] theorem State.record_dev (r : FrameRec) : (s.record r).dev = s.dev := rfl
@[simp] theorem State.record_clock (r : FrameRec) : (s.record r).clock = s.clock := rfl
@[simp] theorem State.record_host (r : FrameRec) : (s.record r).host = s.host := rfl
@[simp] theorem State.record_trace (r : FrameRec) : (s.record r).trace = s.trace ++ [r] := rfl
@[simp] theorem State.record_phases (r : FrameRec) : (s.record r).phases = s.phases := rfl
@[simp] theorem State.record_inbox (r : FrameRec) : (s.record r).inbox = s.inbox := rfl
@[simp] theorem State.record_env (r : FrameRec) : (s.record r).env = s.env := rfl
@[simp] theorem State.record_rest (r : FrameRec) : (s.record r).rest = s.rest := rfl
@[simp] theorem State.record_draw (r : FrameRec) : (s.record r).draw = s.draw := rfl

/-! ### State.pass -/

@[simp] theorem State.pass_cfg : (s.pass).cfg = s.cfg := rfl
@[simp] theorem State.pass_op : (s.pass).seq.op = s.seq.op := rfl
@[simp] theorem State.pass_ph : (s.pass).seq.ph = s.seq.ph := rfl
@[simp] theorem State.pass_sel : (s.pass).seq.sel = s.seq.sel := rfl
@[simp] theorem State.pass_st : (s.pass).seq.st = s.seq.st := rfl
@[simp] theorem State.pass_ctx : (s.pass).seq.ctx = s.seq.ctx := rfl
@[simp] theorem State.pass_dev : (s.pass).dev = if s.slot.complete then engineComplete s.dev else s.dev := rfl
@[simp] theorem State.pass_clock : (s.pass).clock = s.clock + s.slot.tick := rfl
@[simp] theorem State.pass_host : (s.pass).host = s.host := rfl
@[simp] theorem State.pass_trace : (s.pass).trace = s.trace := rfl
@[simp] theorem State.pass_phases : (s.pass).phases = s.phases := rfl
@[simp] theorem State.pass_inbox : (s.pass).inbox = s.inbox := rfl
@[simp] theorem State.pass_env : (s.pass).env = s.env.tail := rfl
@[simp] theorem State.pass_rest : (s.pass).rest = s.rest := rfl
@[simp] theorem State.pass_draw : (s.pass).draw = s.draw := rfl

/-! ### State.withTask -/

@[simp] theorem State.withTask_cfg (x : Task) : (s.withTask x).cfg = s.cfg := rfl
@[simp] theorem State.withTask_op (x : Task) : (s.withTask x).seq.op = some x := rfl
@[simp] theorem State.withTask_ph (x : Task) : (s.withTask x).seq.ph = s.seq.ph := rfl
@[simp] theorem State.withTask_sel (x : Task) : (s.withTask x).seq.sel = s.seq.sel := rfl
@[simp] theorem State.withTask_st (x : Task) : (s.withTask x).seq.st = s.seq.st := rfl
@[simp] theorem State.withTask_ctx (x : Task) : (s.withTask x).seq.ctx = s.seq.ctx := rfl
@[simp] theorem State.withTask_dev (x : Task) : (s.withTask x).dev = s.dev := rfl
@[simp] theorem State.withTask_clock (x : Task) : (s.withTask x).clock = s.clock := rfl
@[simp] theorem State.withTask_host (x : Task) : (s.withTask x).host = s.host := rfl
@[simp] theorem State.withTask_trace (x : Task) : (s.withTask x).trace = s.trace := rfl
@[simp] theorem State.withTask_phases (x : Task) : (s.withTask x).phases = s.phases := rfl
@[simp] theorem State.withTask_inbox (x : Task) : (s.withTask x).inbox = s.inbox := rfl
@[simp] theorem State.withTask_env (x : Task) : (s.withTask x).env = s.env := rfl
@[simp] theorem State.withTask_rest (x : Task) : (s.withTask x).rest = s.rest := rfl
@[simp] theorem State.withTask_draw (x : Task) : (s.withTask x).draw = s.draw := rfl

/-! ### State.begin -/

@[simp] theorem State.begin_cfg (x : Task) (c : Context) : (s.begin x c).cfg = s.cfg := rfl
@[simp] theorem State.begin_op (x : Task) (c : Context) : (s.begin x c).seq.op = some x := rfl
@[simp] theorem State.begin_ph (x : Task) (c : Context) : (s.begin x c).seq.ph = s.seq.ph := rfl
@[simp] theorem State.begin_sel (x : Task) (c : Context) : (s.begin x c).seq.sel = s.seq.sel := rfl
@[simp] theorem State.begin_st (x : Task) (c : Context) : (s.begin x c).seq.st = s.seq.st := rfl
@[simp] theorem State.begin_ctx (x : Task) (c : Context) : (s.begin x c).seq.ctx = c := rfl
@[simp] theorem State.begin_dev (x : Task) (c : Context) : (s.begin x c).dev = s.dev := rfl
@[simp] theorem State.begin_clock (x : Task) (c : Context) : (s.begin x c).clock = s.clock := rfl
@[simp] theorem State.begin_host (x : Task) (c : Context) : (s.begin x c).host = { s.host with out := [], engine := none } := rfl
@[simp] theorem State.begin_trace (x : Task) (c : Context) : (s.begin x c).trace = [] := rfl
@[simp] theorem State.begin_phases (x : Task) (c : Context) : (s.begin x c).phases = [] := rfl
@[simp] theorem State.begin_inbox (x : Task) (c : Context) : (s.begin x c).inbox = s.inbox := rfl
@[simp] theorem State.begin_env (x : Task) (c : Context) : (s.begin x c).env = s.env := rfl
@[simp] theorem State.begin_rest (x : Task) (c : Context) : (s.begin x c).rest = s.rest := rfl
@[simp] theorem State.begin_draw (x : Task) (c : Context) : (s.begin x c).draw = s.draw := rfl

/-! ### State.lend -/

@[simp] theorem State.lend_cfg (buf : List Byte) : (s.lend buf).cfg = s.cfg := rfl
@[simp] theorem State.lend_op (buf : List Byte) : (s.lend buf).seq.op = s.seq.op := rfl
@[simp] theorem State.lend_ph (buf : List Byte) : (s.lend buf).seq.ph = s.seq.ph := rfl
@[simp] theorem State.lend_sel (buf : List Byte) : (s.lend buf).seq.sel = s.seq.sel := rfl
@[simp] theorem State.lend_st (buf : List Byte) : (s.lend buf).seq.st = s.seq.st := rfl
@[simp] theorem State.lend_ctx (buf : List Byte) : (s.lend buf).seq.ctx = s.seq.ctx := rfl
@[simp] theorem State.lend_dev (buf : List Byte) : (s.lend buf).dev = s.dev := rfl
@[simp] theorem State.lend_clock (buf : List Byte) : (s.lend buf).clock = s.clock := rfl
@[simp] theorem State.lend_host (buf : List Byte) : (s.lend buf).host = { s.host with inp := buf } := rfl
@[simp] theorem State.lend_trace (buf : List Byte) : (s.lend buf).trace = s.trace := rfl
@[simp] theorem State.lend_phases (buf : List Byte) : (s.lend buf).phases = s.phases := rfl
@[simp] theorem State.lend_inbox (buf : List Byte) : (s.lend buf).inbox = s.inbox := rfl
@[simp] theorem State.lend_env (buf : List Byte) : (s.lend buf).env = s.env := rfl
@[simp] theorem State.lend_rest (buf : List Byte) : (s.lend buf).rest = s.rest := rfl
@[simp] theorem State.lend_draw (buf : List Byte) : (s.lend buf).draw = s.draw := rfl

/-! ### State.finish -/

@[simp] theorem State.finish_cfg (ad : Bool) (r : Status) : (s.finish ad r).cfg = s.cfg := rfl
@[simp] theorem State.finish_op (ad : Bool) (r : Status) : (s.finish ad r).seq.op = none := rfl
@[simp] theorem State.finish_ph (ad : Bool) (r : Status) : (s.finish ad r).seq.ph = .idle := rfl
@[simp] theorem State.finish_sel (ad : Bool) (r : Status) : (s.finish ad r).seq.sel = s.seq.sel := rfl
@[simp] theorem State.finish_st (ad : Bool) (r : Status) : (s.finish ad r).seq.st = r := rfl
@[simp] theorem State.finish_ctx (ad : Bool) (r : Status) : (s.finish ad r).seq.ctx = freeContext s.draw := rfl
@[simp] theorem State.finish_dev (ad : Bool) (r : Status) : (s.finish ad r).dev = s.dev := rfl
@[simp] theorem State.finish_clock (ad : Bool) (r : Status) : (s.finish ad r).clock = s.clock := rfl
@[simp] theorem State.finish_host (ad : Bool) (r : Status) : (s.finish ad r).host = { s.host with engine := if ad then some (engineCode r) else none } := rfl
@[simp] theorem State.finish_trace (ad : Bool) (r : Status) : (s.finish ad r).trace = s.trace := rfl
@[simp] theorem State.finish_phases (ad : Bool) (r : Status) : (s.finish ad r).phases = s.phases := rfl
@[simp] theorem State.finish_inbox (ad : Bool) (r : Status) : (s.finish ad r).inbox = s.inbox := rfl
@[simp] theorem State.finish_env (ad : Bool) (r : Status) : (s.finish ad r).env = s.env := rfl
@[simp] theorem State.finish_rest (ad : Bool) (r : Status) : (s.finish ad r).rest = s.rest := rfl
@[simp] theorem State.finish_draw (ad : Bool) (r : Status) : (s.finish ad r).draw = s.draw + 1 := rfl

/-! ### State.select -/

@[simp] theorem State.select_cfg : (s.select).cfg = s.cfg := rfl
@[simp] theorem State.select_op : (s.select).seq.op = s.seq.op := rfl
@[simp] theorem State.select_ph : (s.select).seq.ph = .selected := rfl
@[simp] theorem State.select_sel : (s.select).seq.sel = true := rfl
@[simp] theorem State.select_st : (s.select).seq.st = s.seq.st := rfl
@[simp] theorem State.select_ctx : (s.select).seq.ctx = s.seq.ctx := rfl
@[simp] theorem State.select_dev : (s.select).dev = s.dev := rfl
@[simp] theorem State.select_clock : (s.select).clock = s.clock := rfl
@[simp] theorem State.select_host : (s.select).host = s.host := rfl
@[simp] theorem State.select_trace : (s.select).trace = s.trace := rfl
@[simp] theorem State.select_phases : (s.select).phases = s.phases ++ [.selected] := rfl
@[simp] theorem State.select_inbox : (s.select).inbox = s.inbox := rfl
@[simp] theorem State.select_env : (s.select).env = s.env := rfl
@[simp] theorem State.select_rest : (s.select).rest = s.rest := rfl
@[simp] theorem State.select_draw : (s.select).draw = s.draw := rfl

/-! ### State.deselect -/

@[simp] theorem State.deselect_cfg : (s.deselect).cfg = s.cfg := rfl
@[simp] theorem State.deselect_op : (s.deselect).seq.op = s.seq.op := rfl
@[simp] theorem State.deselect_ph : (s.deselect).seq.ph = .idle := rfl
@[simp] theorem State.deselect_sel : (s.deselect).seq.sel = false := rfl
@[simp] theorem State.deselect_st : (s.deselect).seq.st = s.seq.st := rfl
@[simp] theorem State.deselect_ctx : (s.deselect).seq.ctx = s.seq.ctx := rfl
@[simp] theorem State.deselect_dev : (s.deselect).dev = s.dev := rfl
@[simp] theorem State.deselect_clock : (s.deselect).clock = s.clock := rfl
@[simp] theorem State.deselect_host : (s.deselect).host = s.host := rfl
@[simp] theorem State.deselect_trace : (s.deselect).trace = s.trace := rfl
@[simp] theorem State.deselect_phases : (s.deselect).phases = s.phases ++ [.deselected] ++ [.idle] := rfl
@[simp] theorem State.deselect_inbox : (s.deselect).inbox = s.inbox := rfl
@[simp] theorem State.deselect_env : (s.deselect).env = s.env := rfl
@[simp] theorem State.deselect_rest : (s.deselect).rest = s.rest := rfl
@[simp] theorem State.deselect_draw : (s.deselect).draw = s.draw := rfl

/-! ### State.consumed -/

@[simp] theorem State.consumed_cfg (tx : List Byte) (an : Answer) : (s.consumed tx an).cfg = s.cfg := rfl
@[simp] theorem State.consumed_op (tx : List Byte) (an : Answer) : (s.consumed tx an).seq.op = s.seq.op := rfl
@[simp] theorem State.consumed_ph (tx : List Byte) (an : Answer) : (s.consumed tx an).seq.ph = s.seq.ph := rfl
@[simp] theorem State.consumed_sel (tx : List Byte) (an : Answer) : (s.consumed tx an).seq.sel = s.seq.sel := rfl
@[simp] theorem State.consumed_st (tx : List Byte) (an : Answer) : (s.consumed tx an).seq.st = s.seq.st := rfl
@[simp] theorem State.consumed_ctx (tx : List Byte) (an : Answer) : (s.consumed tx an).seq.ctx = s.seq.ctx := rfl
@[simp] theorem State.consumed_dev (tx : List Byte) (an : Answer) : (s.consumed tx an).dev = an.dev := rfl
@[simp] theorem State.consumed_clock (tx : List Byte) (an : Answer) : (s.consumed tx an).clock = s.clock := rfl
@[simp] theorem State.consumed_host (tx : List Byte) (an : Answer) : (s.consumed tx an).host = s.host := rfl
@[simp] theorem State.consumed_trace (tx : List Byte) (an : Answer) : (s.consumed tx an).trace = s.trace ++ [{ tx := tx, rx := an.rx, err := none }] := rfl
@[simp] theorem State.consumed_phases (tx : List Byte) (an : Answer) : (s.consumed tx an).phases = s.phases := rfl
@[simp] theorem State.consumed_inbox (tx : List Byte) (an : Answer) : (s.consumed tx an).inbox = s.inbox := rfl
@[simp] theorem State.consumed_env (tx : List Byte) (an : Answer) : (s.consumed tx an).env = s.env := rfl
@[simp] theorem State.consumed_rest (tx : List Byte) (an : Answer) : (s.consumed tx an).rest = s.rest := rfl
@[simp] theorem State.consumed_draw (tx : List Byte) (an : Answer) : (s.consumed tx an).draw = s.draw + 1 := rfl

/-! ### State.waitPoll -/

@[simp] theorem State.waitPoll_cfg : (s.waitPoll).cfg = s.cfg := rfl
@[simp] theorem State.waitPoll_op : (s.waitPoll).seq.op = s.seq.op := rfl
@[simp] theorem State.waitPoll_ph : (s.waitPoll).seq.ph = s.seq.ph := rfl
@[simp] theorem State.waitPoll_sel : (s.waitPoll).seq.sel = s.seq.sel := rfl
@[simp] theorem State.waitPoll_st : (s.waitPoll).seq.st = s.seq.st := rfl
@[simp] theorem State.waitPoll_ctx : (s.waitPoll).seq.ctx = s.seq.ctx := rfl
@[simp] theorem State.waitPoll_dev : (s.waitPoll).dev = if s.slot.complete then engineComplete s.dev else s.dev := rfl
@[simp] theorem State.waitPoll_clock : (s.waitPoll).clock = s.clock + s.slot.tick + s.cfg.pollIntervalMs := rfl
@[simp] theorem State.waitPoll_host : (s.waitPoll).host = s.host := rfl
@[simp] theorem State.waitPoll_trace : (s.waitPoll).trace = s.trace := rfl
@[simp] theorem State.waitPoll_phases : (s.waitPoll).phases = s.phases := rfl
@[simp] theorem State.waitPoll_inbox : (s.waitPoll).inbox = s.inbox := rfl
@[simp] theorem State.waitPoll_env : (s.waitPoll).env = s.env.tail := rfl
@[simp] theorem State.waitPoll_rest : (s.waitPoll).rest = s.rest := rfl
@[simp] theorem State.waitPoll_draw : (s.waitPoll).draw = s.draw := rfl

/-! ### State.sampleT0 -/

@[simp] theorem State.sampleT0_cfg : (s.sampleT0).cfg = s.cfg := rfl
@[simp] theorem State.sampleT0_op : (s.sampleT0).seq.op = s.seq.op := rfl
@[simp] theorem State.sampleT0_ph : (s.sampleT0).seq.ph = s.seq.ph := rfl
@[simp] theorem State.sampleT0_sel : (s.sampleT0).seq.sel = s.seq.sel := rfl
@[simp] theorem State.sampleT0_st : (s.sampleT0).seq.st = s.seq.st := rfl
@[simp] theorem State.sampleT0_ctx : (s.sampleT0).seq.ctx = { s.seq.ctx with t0 := s.clock + s.slot.tick } := rfl
@[simp] theorem State.sampleT0_dev : (s.sampleT0).dev = if s.slot.complete then engineComplete s.dev else s.dev := rfl
@[simp] theorem State.sampleT0_clock : (s.sampleT0).clock = s.clock + s.slot.tick := rfl
@[simp] theorem State.sampleT0_host : (s.sampleT0).host = s.host := rfl
@[simp] theorem State.sampleT0_trace : (s.sampleT0).trace = s.trace := rfl
@[simp] theorem State.sampleT0_phases : (s.sampleT0).phases = s.phases := rfl
@[simp] theorem State.sampleT0_inbox : (s.sampleT0).inbox = s.inbox := rfl
@[simp] theorem State.sampleT0_env : (s.sampleT0).env = s.env.tail := rfl
@[simp] theorem State.sampleT0_rest : (s.sampleT0).rest = s.rest := rfl
@[simp] theorem State.sampleT0_draw : (s.sampleT0).draw = s.draw := rfl

end Sys2Proof.Machine
end

