-- ==== Sys2Proof/Laws/Seq.lean ====
section
/-! SUPPORT. What a step of the sequencer can do to the state, said once: `Rests` holds from the start of every step of an
operation to its end, whatever the bus, the engine and the clock do. -/

namespace Sys2Proof.Machine

/-- What every part of the sequencer keeps: the parameters, the read-only parts of the device, what the host has still
to present, its input buffer (R26); the clock never goes back (R268), and a sound device stays sound. -/
structure Keeps (s t : State) : Prop where
  cfg   : t.cfg = s.cfg
  parts : SameParts s.dev t.dev
  clock : s.clock ≤ t.clock
  inbox : t.inbox = s.inbox
  rest  : t.rest = s.rest
  op    : t.seq.op = s.seq.op
  inp   : t.host.inp = s.host.inp
  geo   : t.host.geometry = s.host.geometry
  dev   : validParams s.cfg = true → DevOk s.cfg s.dev → DevOk s.cfg t.dev

/-- `Keeps`, and the bus is at rest at the end if it was at the start (R25). -/
structure Rests (s t : State) : Prop extends Keeps s t where
  idle : s.seq.ph = .idle → t.seq.ph = .idle
  sel  : s.seq.sel = false → t.seq.sel = false

theorem Keeps.refl (s : State) : Keeps s s :=
  ⟨rfl, SameParts.refl _, Nat.le_refl _, rfl, rfl, rfl, rfl, rfl, fun _ h => h⟩

theorem Keeps.trans {s t u : State} (h : Keeps s t) (g : Keeps t u) : Keeps s u where
  cfg := g.cfg.trans h.cfg
  parts := h.parts.trans g.parts
  clock := Nat.le_trans h.clock g.clock
  inbox := g.inbox.trans h.inbox
  rest := g.rest.trans h.rest
  op := g.op.trans h.op
  inp := g.inp.trans h.inp
  geo := g.geo.trans h.geo
  dev hv hd := by
    have := g.dev (h.cfg ▸ hv) (h.cfg ▸ h.dev hv hd)
    rwa [h.cfg] at this

theorem Rests.refl (s : State) : Rests s s := ⟨Keeps.refl s, id, id⟩

theorem Rests.trans {s t u : State} (h : Rests s t) (g : Rests t u) : Rests s u :=
  ⟨h.toKeeps.trans g.toKeeps, g.idle ∘ h.idle, g.sel ∘ h.sel⟩

/-- An update that touches none of what `Keeps` speaks of. -/
theorem Keeps.of_same {s t : State} (hc : t.cfg = s.cfg) (hd : t.dev = s.dev) (hk : t.clock = s.clock)
    (hi : t.inbox = s.inbox) (hr : t.rest = s.rest) (ho : t.seq.op = s.seq.op) (hp : t.host.inp = s.host.inp)
    (hg : t.host.geometry = s.host.geometry) : Keeps s t :=
  ⟨hc, hd ▸ SameParts.refl _, by omega, hi, hr, ho, hp, hg, fun _ h => hd ▸ h⟩

theorem setPhase_keeps (p : Phase) (s : State) : Keeps s (s.setPhase p) := Keeps.of_same rfl rfl rfl rfl rfl rfl rfl rfl

theorem withCtx_rests (c : Context) (s : State) : Rests s (s.withCtx c) :=
  ⟨Keeps.of_same rfl rfl rfl rfl rfl rfl rfl rfl, id, id⟩

theorem advanceCursor_rests (n : Nat) (s : State) : Rests s (advanceCursor n s) := withCtx_rests _ s

theorem pass_rests (s : State) : Rests s s.pass := by
  refine ⟨⟨rfl, ?_, by simp, rfl, rfl, rfl, rfl, rfl, ?_⟩, id, id⟩
  · rw [State.pass_dev]; split_ifs
    · exact engineComplete_sameParts _
    · exact SameParts.refl _
  · intro _ h
    rw [State.pass_dev]; split_ifs
    · exact engineComplete_devOk h
    · exact h

theorem sampleT0_rests (s : State) : Rests s s.sampleT0 := (pass_rests s).trans (withCtx_rests _ _)

theorem waitPoll_rests (s : State) : Rests s s.waitPoll := by
  have h := pass_rests s
  exact ⟨⟨h.cfg, h.parts, by rw [State.waitPoll_clock]; omega, h.inbox, h.rest, h.op, h.inp, h.geo, h.dev⟩,
    h.idle, h.sel⟩

/-! ### The frame procedure (R163) -/

/-- A frame ends deselected and `Idle`, whatever happened in it (R25, R163). -/
structure FrameEnds (s : State) (r : FrameResult) : Prop where
  keeps : Keeps s r.s
  idle  : r.s.seq.ph = .idle
  sel   : r.s.seq.sel = false

theorem FrameEnds.rests {s : State} {r : FrameResult} (h : FrameEnds s r) : Rests s r.s :=
  ⟨h.keeps, fun _ => h.idle, fun _ => h.sel⟩

theorem frameDone_ends (ab : Bool) (tx : List Byte) (nin : Nat) (s : State) : FrameEnds s (frameDone ab tx nin s) where
  keeps := ⟨rfl, devTakes_sameParts .., Nat.le_refl _, rfl, rfl, rfl, rfl, rfl,
    fun hv hd => devTakes_devOk (paramFacts hv) _ _ _ _ hd⟩
  idle := rfl
  sel := rfl

theorem frameFailed_ends (ab : Bool) (tx sent : List Byte) (nin : Nat) (e : BusError) (s : State) :
    FrameEnds s (frameFailed ab tx sent nin e s) where
  keeps := ⟨rfl, devAfterFailure_sameParts .., Nat.le_refl _, rfl, rfl, rfl, rfl, rfl,
    fun hv hd => devAfterFailure_devOk (paramFacts hv) _ _ _ _ hd⟩
  idle := rfl
  sel := rfl

theorem FrameEnds.after {s t : State} {r : FrameResult} (h : Keeps s t) (g : FrameEnds t r) : FrameEnds s r :=
  ⟨h.trans g.keeps, g.idle, g.sel⟩

theorem select_keeps (s : State) : Keeps s s.select := Keeps.of_same rfl rfl rfl rfl rfl rfl rfl rfl

theorem seqFrame_ends (hdr dout : List Byte) (nin : Nat) (s : State) : FrameEnds s (seqFrame hdr dout nin s) := by
  have h1 : Keeps s s.pass.select := (pass_rests s).toKeeps.trans (select_keeps _)
  have h2 := h1.trans (setPhase_keeps .commandSent _)
  have h3 := h2.trans (setPhase_keeps .dataPhase _)
  unfold seqFrame
  dsimp only
  split
  · exact (frameFailed_ends ..).after h1
  · split_ifs
    · exact (frameDone_ends ..).after h2
    · split
      · exact (frameFailed_ends ..).after h3
      · exact (frameDone_ends ..).after h3

/-- A frame of a slot in which nothing fails: the device, left by the slot, consumes it and answers (R163). -/
theorem seqFrame_ok {s : State} (h : s.slot.noError) (hdr dout : List Byte) (nin : Nat) :
    (seqFrame hdr dout nin s).st = .ok ∧
    (seqFrame hdr dout nin s).rx = (devConsume s.cfg s.draw (hdr ++ dout) nin s.pass.dev).rx ∧
    (seqFrame hdr dout nin s).s.dev = (devConsume s.cfg s.draw (hdr ++ dout) nin s.pass.dev).dev ∧
    (seqFrame hdr dout nin s).s.trace =
      s.trace ++ [{ tx := hdr ++ dout, rx := (devConsume s.cfg s.draw (hdr ++ dout) nin s.pass.dev).rx, err := none }] := by
  obtain ⟨h1, h2, h3⟩ := h
  unfold seqFrame
  dsimp only
  simp only [h1, h2, h3]
  split_ifs <;> exact ⟨rfl, rfl, rfl, rfl⟩

/-- A frame returns `Ok` or a transport error, nothing else (R163, R251). -/
theorem seqFrame_st (hdr dout : List Byte) (nin : Nat) (s : State) :
    (seqFrame hdr dout nin s).st = .ok ∨ ∃ e, (seqFrame hdr dout nin s).st = .transportError e := by
  unfold seqFrame
  dsimp only
  split
  · exact .inr ⟨_, rfl⟩
  · split_ifs
    · exact .inl rfl
    · split
      · exact .inr ⟨_, rfl⟩
      · exact .inl rfl

/-- A frame takes one slot, and moves no context register and nothing of the host's (R6, R21). -/
theorem seqFrame_same (hdr dout : List Byte) (nin : Nat) (s : State) :
    (seqFrame hdr dout nin s).s.seq.ctx = s.seq.ctx ∧ (seqFrame hdr dout nin s).s.env = s.env.tail ∧
    (seqFrame hdr dout nin s).s.clock = s.clock + s.slot.tick ∧ (seqFrame hdr dout nin s).s.host = s.host := by
  unfold seqFrame
  dsimp only
  split
  · exact ⟨rfl, rfl, rfl, rfl⟩
  · split_ifs
    · exact ⟨rfl, rfl, rfl, rfl⟩
    · split <;> exact ⟨rfl, rfl, rfl, rfl⟩

/-! ### What comes after a frame -/

/-- `onOk` goes on only after `Ok`, and otherwise the operation returns the status (R190). -/
theorem onOk_cases (r : FrameResult) (k : State → Run) :
    (r.st = .ok ∧ onOk r k = k r.s) ∨ (r.st ≠ .ok ∧ onOk r k = (.ret r.st, r.s)) := by
  obtain ⟨st, rx, s⟩ := r
  cases st <;> simp [onOk]

theorem onOk_ok {r : FrameResult} (h : r.st = .ok) (k : State → Run) : onOk r k = k r.s := by
  unfold onOk; rw [h]

theorem onOk_rests {s : State} {r : FrameResult} {k : State → Run} (h : Rests s r.s) (g : ∀ t, Rests t (k t).2) :
    Rests s (onOk r k).2 := by
  rcases onOk_cases r k with ⟨_, e⟩ | ⟨_, e⟩ <;> rw [e]
  · exact h.trans (g _)
  · exact h

/-! ### Every step of an operation (R6) -/

theorem sendFrame_rests (hdr dout : List Byte) (x : Exit) (s : State) : Rests s (sendFrame hdr dout x s).2 :=
  onOk_rests (seqFrame_ends ..).rests fun t => Rests.refl t

theorem readStatus_ends (s : State) : FrameEnds s (readStatus s) := by
  have h := seqFrame_ends [s.cfg.ops.rdsr] [] 1 s
  unfold readStatus
  dsimp only
  split
  · exact ⟨h.keeps.trans (withCtx_rests _ _).toKeeps, h.idle, h.sel⟩
  all_goals exact h

theorem latchCheck_rests (s : State) : Rests s (latchCheck s).2 :=
  onOk_rests ((readStatus_ends (s.setPhase .latchCheck)).after (setPhase_keeps .latchCheck s)).rests fun t => by
    split_ifs
    · exact Rests.refl t
    · exact ⟨(setPhase_keeps .reject t).trans (setPhase_keeps .idle _), fun _ => rfl, id⟩

theorem checkCleared_rests (x : Exit) (s : State) : Rests s (checkCleared x s).2 :=
  onOk_rests (readStatus_ends s).rests fun t => by split_ifs <;> exact Rests.refl t

theorem readRange_rests (a : Word) (n : Nat) (s : State) : Rests s (readRange a n s).s :=
  (withCtx_rests _ s).trans (seqFrame_ends ..).rests

theorem deliverFrame_rests {s : State} {r : FrameResult} (h : Rests s r.s) : Rests s (deliverFrame r).2 :=
  h.trans ⟨Keeps.of_same rfl rfl rfl rfl rfl rfl rfl rfl, id, id⟩

theorem checkId_rests (s : State) : Rests s (checkId s).s := by
  have h := (seqFrame_ends [s.cfg.ops.rdid] [] 3 s).rests
  unfold checkId
  dsimp only
  split
  · split_ifs <;> exact h
  all_goals exact h

theorem timeTest_rests (bound : Nat) (s : State) : Rests s (timeTest bound s).2 := by
  unfold timeTest
  dsimp only
  split_ifs <;> exact pass_rests s

theorem whenReady_rests (op : Op) (s : State) : Rests s (whenReady op s).2 := by
  cases op <;> try exact Rests.refl s
  exact (advanceCursor_rests _ s).trans (withCtx_rests _ _)

theorem pollOnce_rests (bound : Nat) {ready : State → Run} (h : ∀ t, Rests t (ready t).2) (s : State) :
    Rests s (pollOnce bound ready s).2 :=
  onOk_rests (readStatus_ends s).rests fun t => by
    split_ifs
    · exact Rests.refl t
    · exact h t

theorem identifyStep_rests (op : Op) (s : State) : Rests s (identifyStep op s).2 := by
  have h := checkId_rests s
  unfold identifyStep
  cases op
  case bringUp => dsimp only; split <;> exact h
  all_goals exact h

theorem readBackStep_rests (op : Op) (s : State) : Rests s (readBackStep op s).2 :=
  onOk_rests (readRange_rests ..) fun t => by split_ifs <;> exact Rests.refl t

theorem sliceStep_rests (s : State) : Rests s (sliceStep s).2 :=
  onOk_rests (readRange_rests ..) fun t => by
    split_ifs
    · exact advanceCursor_rests _ t
    · exact Rests.refl t

/-- Every step of an operation, at every point. -/
theorem atPoint_rests (op : Op) (pt : Point) (s : State) : Rests s (atPoint op pt s).2 := by
  cases pt
  case rsten => exact sendFrame_rests ..
  case rst => exact sendFrame_rests ..
  case sample => exact sampleT0_rests s
  case identify => exact identifyStep_rests op s
  case enable => exact sendFrame_rests ..
  case latch => exact latchCheck_rests s
  case command => exact sendFrame_rests ..
  case poll => exact pollOnce_rests _ (whenReady_rests op) s
  case test => exact timeTest_rests _ s
  case wait => exact waitPoll_rests s
  case disable => exact sendFrame_rests ..
  case cleared => exact checkCleared_rests _ s
  case readBack => exact readBackStep_rests op s
  case slice => exact sliceStep_rests s
  case transfer => exact deliverFrame_rests (readRange_rests ..)
  case status => exact deliverFrame_rests (readStatus_ends s).rests
  case config => exact deliverFrame_rests (seqFrame_ends ..).rests

/-- What `settle` closes a step with: the operation has returned, or stands at its next point. -/
theorem settle_cases (op : Op) (r : Run) :
    (∃ st, r.1 = .ret st ∧ settle op r = State.finish op.adapter st r.2) ∨
    (∃ pt, r.1 = .goto pt ∧ settle op r = r.2.withTask { op := op, pt := pt }) := by
  obtain ⟨x, s⟩ := r
  cases x with
  | ret st => exact .inl ⟨st, rfl, rfl⟩
  | goto pt => exact .inr ⟨pt, rfl, rfl⟩

/-! What `settle` leaves alone. -/

variable (op : Op) (r : Run)

@[simp] theorem settle_cfg : (settle op r).cfg = r.2.cfg := by obtain ⟨x, _⟩ := r; cases x <;> rfl
@[simp] theorem settle_dev : (settle op r).dev = r.2.dev := by obtain ⟨x, _⟩ := r; cases x <;> rfl
@[simp] theorem settle_clock : (settle op r).clock = r.2.clock := by obtain ⟨x, _⟩ := r; cases x <;> rfl
@[simp] theorem settle_env : (settle op r).env = r.2.env := by obtain ⟨x, _⟩ := r; cases x <;> rfl
@[simp] theorem settle_rest : (settle op r).rest = r.2.rest := by obtain ⟨x, _⟩ := r; cases x <;> rfl
@[simp] theorem settle_inbox : (settle op r).inbox = r.2.inbox := by obtain ⟨x, _⟩ := r; cases x <;> rfl
@[simp] theorem settle_trace : (settle op r).trace = r.2.trace := by obtain ⟨x, _⟩ := r; cases x <;> rfl
@[simp] theorem settle_phases : (settle op r).phases = r.2.phases := by obtain ⟨x, _⟩ := r; cases x <;> rfl
@[simp] theorem settle_sel : (settle op r).seq.sel = r.2.seq.sel := by obtain ⟨x, _⟩ := r; cases x <;> rfl
@[simp] theorem settle_inp : (settle op r).host.inp = r.2.host.inp := by obtain ⟨x, _⟩ := r; cases x <;> rfl
@[simp] theorem settle_out : (settle op r).host.out = r.2.host.out := by obtain ⟨x, _⟩ := r; cases x <;> rfl
@[simp] theorem settle_geometry : (settle op r).host.geometry = r.2.host.geometry := by obtain ⟨x, _⟩ := r; cases x <;> rfl

end Sys2Proof.Machine
end

