-- ==== Sys2Proof/Laws/Steps.lean ====
section
/-! SUPPORT. What a step of the machine can be: the operation a request starts, one case for each thing a step does, and how
the steps of an operation are put together to its return. -/

namespace Sys2Proof.Machine

/-! ### Requests as operations (R100, R230) -/

/-- The operation of `SEQ` that a request starts, when its adapter product is below 2^32 and its buffer long enough. -/
def requestOp (p : Params) : Instr → Option Op
  | .reqInitialize => some (.bringUp false)
  | .reqReset => some .reset
  | .reqRead addr size => some (.read false addr size)
  | .reqWrite addr size buf => if buf.length < size.toNat then none else some (.write false addr size)
  | .reqEraseSector addr _ => some (.eraseSector false addr)
  | .reqVerifySectorErased addr => some (.verifySectorErased false addr)
  | .reqBusyPoll timeoutMs => some (.busyPoll timeoutMs)
  | .reqCheckId => some .checkId
  | .reqReadStatus => some .readStatus
  | .reqReadConfig => some .readConfig
  | .reqWriteEnable => some .writeEnable
  | .reqWriteDisable => some .writeDisable
  | .reqWriteStatus status config => some (.writeStatus status config)
  | .reqUnlockAllBlocks => some .unlockAllBlocks
  | .reqBlockRead addr words =>
    if fitsWord (wordBytes p words) then some (.read true addr (BitVec.ofNat 32 (wordBytes p words))) else none
  | .reqBlockWrite addr words src =>
    if fitsWord (wordBytes p words) then
      if src.length < wordBytes p words then none
      else some (.write true addr (BitVec.ofNat 32 (wordBytes p words)))
    else none
  | .reqBlockErase block _ =>
    if fitsWord (blockByteAddr p block) then some (.eraseSector true (BitVec.ofNat 32 (blockByteAddr p block))) else none
  | .reqBlockEraseVerify block =>
    if fitsWord (blockByteAddr p block) then some (.verifySectorErased true (BitVec.ofNat 32 (blockByteAddr p block)))
    else none
  | .reqSystemError _ => some (.bringUp true)
  | .nop | .rsten | .rst | .rdsr _ | .wrsr _ _ | .rdcr _ | .read _ _ | .hsread _ _ _ | .wren | .wrdi | .se _ | .be _
  | .ce | .pp _ _ | .rdid _ | .sfdp _ _ _ | .rbpr _ | .ulbpr | .rsid _ _ _ | .dpd | .rdpd => none

theorem acceptRequest_next {op : Op} {s t : State} (h : acceptRequest op s = .next t) : Ready s ∧ t = startOp op s := by
  unfold acceptRequest at h
  split_ifs at h with h1 h2
  simp only [Bool.or_eq_true, Option.isSome_iff_ne_none, decide_eq_true_eq, not_or, not_not] at h1
  injection h with h
  exact ⟨⟨h1.1, h1.2, h2⟩, h.symm⟩

theorem acceptRequest_of_ready {s : State} (h : Ready s) (op : Op) : acceptRequest op s = .next (startOp op s) := by
  obtain ⟨h1, h2, h3⟩ := h
  simp [acceptRequest, h1, h2, h3]

/-- A request that a machine accepts starts its operation (R164). -/
theorem exec_of_op {i : Instr} {s : State} {op : Op} (h : Ready s) (ho : requestOp s.cfg i = some op) :
    exec i s = .next (startOp op (s.lend (inputBuffer i s))) := by
  have k := acceptRequest_of_ready h
  have kl : ∀ b, acceptRequest op (s.lend b) = .next (startOp op (s.lend b)) := fun b => acceptRequest_of_ready (s := s.lend b) h op
  cases i <;> simp only [requestOp, reduceCtorEq] at ho
  case reqWrite a n b =>
    split_ifs at ho with hb
    obtain rfl := Option.some.inj ho
    show (if _ then _ else _) = _
    rw [if_neg hb]; exact kl _
  case reqBlockRead a n =>
    split_ifs at ho with hf
    obtain rfl := Option.some.inj ho
    show (if _ then _ else _) = _
    rw [if_pos hf]; exact k _
  case reqBlockWrite a n b =>
    split_ifs at ho with hf hb
    obtain rfl := Option.some.inj ho
    show (if _ then (if _ then _ else _) else _) = _
    rw [if_pos hf, if_neg hb]; exact kl _
  case reqBlockErase a n =>
    split_ifs at ho with hf
    obtain rfl := Option.some.inj ho
    show (if _ then _ else _) = _
    rw [if_pos hf]; exact k _
  case reqBlockEraseVerify a =>
    split_ifs at ho with hf
    obtain rfl := Option.some.inj ho
    show (if _ then _ else _) = _
    rw [if_pos hf]; exact k _
  all_goals (obtain rfl := Option.some.inj ho; exact k _)

/-- Every request that has a next state was accepted and started its operation (R164). -/
theorem exec_of_request {i : Instr} {s t : State} (hf : isFrame i = false) (h : exec i s = .next t) :
    Ready s ∧ ∃ op, requestOp s.cfg i = some op ∧ t = startOp op (s.lend (inputBuffer i s)) := by
  cases i <;> simp only [isFrame, encode, Bool.true_eq_false] at hf
  case reqWrite a n b =>
    simp only [exec, execReqWrite, acceptWrite] at h
    split_ifs at h with hb
    obtain ⟨h1, rfl⟩ := acceptRequest_next h
    exact ⟨h1, _, by simp [requestOp, hb], rfl⟩
  case reqBlockRead a n =>
    simp only [exec, execReqBlockRead] at h
    split_ifs at h with hf
    obtain ⟨h1, rfl⟩ := acceptRequest_next h
    exact ⟨h1, _, by simp [requestOp, hf], rfl⟩
  case reqBlockWrite a n b =>
    simp only [exec, execReqBlockWrite, acceptWrite] at h
    split_ifs at h with hf hb
    obtain ⟨h1, rfl⟩ := acceptRequest_next h
    exact ⟨h1, _, by simp [requestOp, hf, hb], rfl⟩
  case reqBlockErase a n =>
    simp only [exec, execReqBlockErase] at h
    split_ifs at h with hf
    obtain ⟨h1, rfl⟩ := acceptRequest_next h
    exact ⟨h1, _, by simp [requestOp, hf], rfl⟩
  case reqBlockEraseVerify a =>
    simp only [exec, execReqBlockEraseVerify] at h
    split_ifs at h with hf
    obtain ⟨h1, rfl⟩ := acceptRequest_next h
    exact ⟨h1, _, by simp [requestOp, hf], rfl⟩
  all_goals (obtain ⟨h1, rfl⟩ := acceptRequest_next h; exact ⟨h1, _, rfl, rfl⟩)

/-- A request as accepted: its first step, or the return of a misaligned one without any (R164, R204, R205). -/
theorem startOp_cases (op : Op) (s : State) :
    (rightlyAligned s.cfg op = true ∧ startOp op s = settle op (atPoint op (opening op)
      (s.begin { op := op, pt := opening op } (openingContext s.cfg s.seq.ctx op)))) ∨
    (rightlyAligned s.cfg op = false ∧ startOp op s = State.finish op.adapter .alignmentError
      (s.begin { op := op, pt := opening op } s.seq.ctx)) := by
  unfold startOp
  dsimp only
  split_ifs with h
  · exact .inl ⟨h, rfl⟩
  · exact .inr ⟨by simpa using h, rfl⟩

/-! ### What a step is -/

/-- With an operation in progress, a step is the operation's step at its point (R6, R164). -/
theorem step_of_op {s : State} {t : Task} (h : s.seq.op = some t) : step s = .next (resumeOp t s) := by
  unfold step fetch; rw [h]

/-- A step with nothing in progress takes the host's next item. -/
theorem step_of_item {s : State} {item : Item} {later : List Item} (ho : s.seq.op = none) (h : s.inbox = item :: later) :
    step s = match fetchItem item { s with inbox := later } with
      | .instr i s1 => exec i s1
      | .done o => o := by
  have hf : fetch s = fetchItem item { s with inbox := later } := by simp only [fetch, ho, h]
  rw [← hf]; rfl

/-- A step with nothing in progress and nothing presented lets time pass (R280). -/
theorem step_of_idle {s : State} (ho : s.seq.op = none) (h : s.inbox = []) : step s = .next s.pass := by
  have hf : fetch s = .done (.next s.idle) := by simp only [fetch, ho, h]
  rw [step, hf, State.idle]

/-- A chip command is a frame that the device consumes. -/
theorem exec_of_frame {i : Instr} (h : isFrame i = true) (s : State) : exec i s = directFrame i s := by
  cases i <;> first | rfl | (simp [isFrame, encode] at h)

/-- What a step can be: a step of an operation, an idle step, or one of the host's items (R6, R306). -/
theorem step_cases {s t : State} (h : step s = .next t) :
    (∃ task, s.seq.op = some task ∧ t = resumeOp task s) ∨
    (s.seq.op = none ∧ s.inbox = [] ∧ t = s.pass) ∨
    ∃ item later, s.seq.op = none ∧ s.inbox = item :: later ∧
      ((∃ i, isFrame i = true ∧ directFrame i { s with inbox := later } = .next t) ∨
       (∃ i op, isFrame i = false ∧ Ready { s with inbox := later } ∧ requestOp s.cfg i = some op ∧
          t = startOp op (State.lend (inputBuffer i s) { s with inbox := later })) ∨
       (∃ tx n, t = malformedFrame tx n { s with inbox := later }) ∨
       t = State.pass { s with inbox := later } ∨ t = State.geometryQuery { s with inbox := later } ∨
       State.powerOn { s with inbox := later } = .next t ∨ t = State.seqReset { s with inbox := later }) := by
  cases ho : s.seq.op with
  | some task =>
    rw [step_of_op ho] at h
    injection h with h
    exact .inl ⟨task, rfl, h.symm⟩
  | none =>
    cases hi : s.inbox with
    | nil =>
      rw [step_of_idle ho hi] at h
      injection h with h
      exact .inr (.inl ⟨rfl, rfl, h.symm⟩)
    | cons item later =>
      refine .inr (.inr ⟨item, later, rfl, rfl, ?_⟩)
      rw [step_of_item ho hi] at h
      cases item with
      | idle => injection h with h; exact .inr (.inr (.inr (.inl h.symm)))
      | geometry => injection h with h; exact .inr (.inr (.inr (.inr (.inl h.symm))))
      | powerOn => exact .inr (.inr (.inr (.inr (.inr (.inl h)))))
      | seqReset => injection h with h; exact .inr (.inr (.inr (.inr (.inr (.inr h.symm)))))
      | wire w =>
        simp only [fetchItem] at h
        split at h
        · rename_i hx
          split at hx
          · injection hx with h1 h2
            subst h1 h2
            rename_i i _
            cases hf : isFrame i with
            | true => rw [exec_of_frame hf] at h; exact .inl ⟨i, hf, h⟩
            | false =>
              obtain ⟨h2, op, h3, h4⟩ := exec_of_request hf h
              refine .inr (.inl ⟨i, op, hf, h2, h3, ?_⟩)
              rw [h4]
              cases i <;> rfl
          · cases hx
        · rename_i hx
          split at hx
          · cases hx
          · injection hx with h1
            subst h1
            cases w with
            | frame tx n => injection h with h; exact .inr (.inr (.inl ⟨tx, n, h.symm⟩))
            | request bytes => simp only [rejected] at h; split at h <;> cases h

/-! ### The steps of an operation, one after another -/

theorem GoesOn.trans {s t u : State} (h : GoesOn s t) (g : GoesOn t u) : GoesOn s u := by
  induction h with
  | here => exact g
  | next ho hs _ ih => exact .next ho hs (ih g)

/-- One step of the operation in progress, then the rest. -/
theorem GoesOn.of_step {s u : State} {t : Task} (h : s.seq.op = some t) (g : GoesOn (resumeOp t s) u) : GoesOn s u :=
  .next (by simp [h]) (step_of_op h) g

/-- A step that leads to another point, then the rest. -/
theorem GoesOn.goto {s t u : State} {op : Op} {pt pt' : Point} (h : s.seq.op = some { op := op, pt := pt })
    (hx : atPoint op pt s = (.goto pt', t)) (g : GoesOn (t.withTask { op := op, pt := pt' }) u) : GoesOn s u := by
  refine .of_step h ?_
  unfold resumeOp
  dsimp only
  rw [hx]; exact g

/-- A step that returns. -/
theorem GoesOn.ret {s t : State} {op : Op} {pt : Point} {st : Status} (h : s.seq.op = some { op := op, pt := pt })
    (hx : atPoint op pt s = (.ret st, t)) : GoesOn s (State.finish op.adapter st t) := by
  refine .of_step h ?_
  unfold resumeOp
  dsimp only
  rw [hx]; exact .here _

end Sys2Proof.Machine
end

