-- ==== Sys2Proof/Laws/Frames.lean ====
section
/-! SUPPORT. What one step of an operation adds to the trace, whatever the bus, the device and the clock do: one frame,
whose bytes `pointFrame` names, or none (R6, R165). A property of a trace is shown from this, step by step. -/

namespace Sys2Proof.Machine

/-! ### The length of what is received -/

/-- The number of bytes received is the one the frame was sent with. -/
theorem received_of_decode {o : Opcodes} {tx : List Byte} {n : Nat} {i : Instr} (h : decodeFrame o tx n = .ok i) :
    received i = n := by
  unfold decodeFrame at h
  split at h
  · cases h
  · split at h
    · cases h
    · rename_i c _
      cases c <;> simp only [decodeBody, decodeF0, decodeFR, decodeFW, decodeFA, decodeFAR, decodeFAXR, decodeFAW,
        decodeF2XR] at h <;> split at h <;> (try split at h) <;> (try split at h) <;> cases h <;>
        first | rfl | (symm; assumption)

theorem startErase_rx (k lo hi : Nat) (d : Dev) : (startErase k lo hi d).rx = [] := by
  unfold startErase answer; split_ifs <;> rfl

/-- A command answers with as many bytes as are received in its frame. -/
theorem ownRule_rx_length (p : Params) (k : Nat) (armed : Bool) (i : Instr) (d : Dev) :
    (ownRule p k armed i d).rx.length = received i := by
  cases i <;> simp only [ownRule, received, encode, Wire.received]
  case rst => unfold devRst answer; split_ifs <;> rfl
  case rdsr => simp [devRdsr, answer]
  case rdcr => simp [devRdcr, answer]
  case wrsr => unfold devWrsr answer; split_ifs <;> rfl
  case read => simp [devRead, answer]
  case hsread => simp [devHsread, devRead, answer]
  case se => unfold devSe; dsimp only; split_ifs <;> simp [startErase_rx]
  case be => simp [devBe, startErase_rx]
  case ce => simp [devCe, startErase_rx]
  case pp => unfold devPp answer; dsimp only; split_ifs <;> rfl
  case rdid => simp [devRdid, answer]
  case sfdp => simp [devSfdp, answer]
  case rbpr => unfold devRbpr answer; split_ifs <;> simp
  case ulbpr => unfold devUlbpr answer; split_ifs <;> rfl
  case rsid => simp [devRsid, answer]
  all_goals rfl

/-- A frame returns as many bytes as are received in it, whether the device takes it or ignores it (R120). -/
theorem devConsume_rx_length (p : Params) (k : Nat) (tx : List Byte) (n : Nat) (d : Dev) :
    (devConsume p k tx n d).rx.length = n := by
  unfold devConsume
  split
  · rename_i i h
    rw [← received_of_decode h]
    unfold devFrame
    dsimp only
    split_ifs <;> simp [ignored, answer, ownRule_rx_length]
  · simp [devMalformed, ignored, answer]

theorem devTakes_rx_length (p : Params) (k : Nat) (ab : Bool) (tx : List Byte) (n : Nat) (d : Dev) :
    (devTakes p k ab tx n d).rx.length = n := by
  unfold devTakes
  split_ifs
  · simp [notTaken, answer]
  · exact devConsume_rx_length ..

/-! ### One frame (R163) -/

/-- What a frame adds to a trace: one record. Either no call failed, and it holds all the bytes sent and received; or a
call failed, and it holds the bytes handed over so far and the error, which is the frame's status. -/
inductive Recorded (hdr dout : List Byte) (nin : Nat) (before after : List FrameRec) (st : Status) (rx : List Byte) : Prop
    where
  | ok (len : rx.length = nin) (st_eq : st = .ok) (trace : after = before ++ [{ tx := hdr ++ dout, rx := rx, err := none }])
  | failed (sent : List Byte) (e : BusError) (some_of : sent = hdr ∨ sent = hdr ++ dout) (st_eq : st = .transportError e)
      (trace : after = before ++ [{ tx := sent, rx := [], err := some e }])

theorem seqFrame_recorded (hdr dout : List Byte) (nin : Nat) (s : State) :
    Recorded hdr dout nin s.trace (seqFrame hdr dout nin s).s.trace (seqFrame hdr dout nin s).st
      (seqFrame hdr dout nin s).rx := by
  unfold seqFrame
  dsimp only
  split
  · exact .failed _ _ (.inl rfl) rfl rfl
  · split_ifs
    · exact .ok (devTakes_rx_length ..) rfl rfl
    · split
      · exact .failed _ _ (.inr rfl) rfl rfl
      · exact .ok (devTakes_rx_length ..) rfl rfl

/-- The status of a frame, from its slot: the error of the header call, else of the data call where there is one (R163). -/
def frameStatus (sl : Slot) (dout : List Byte) (nin : Nat) : Status :=
  match sl.hdrErr with
  | some e => .transportError e
  | none =>
    if dout = [] ∧ nin = 0 then .ok
    else
      match sl.dataErr with
      | some e => .transportError e
      | none => .ok

theorem seqFrame_status (hdr dout : List Byte) (nin : Nat) (s : State) :
    (seqFrame hdr dout nin s).st = frameStatus s.slot dout nin := by
  cases hh : s.slot.hdrErr with
  | some e => simp [seqFrame, frameStatus, frameFailed, hh]
  | none =>
    cases hd : s.slot.dataErr <;> by_cases hz : dout = [] ∧ nin = 0 <;>
      simp [seqFrame, frameStatus, frameFailed, frameDone, hh, hd, hz]

/-- After a frame none of whose calls failed, the device is as the whole frame leaves it (R163). -/
theorem seqFrame_dev {hdr dout : List Byte} {nin : Nat} {s : State} (h : (seqFrame hdr dout nin s).st = .ok) :
    (seqFrame hdr dout nin s).s.dev = (devTakes s.cfg s.draw s.slot.absent (hdr ++ dout) nin s.pass.dev).dev := by
  cases hh : s.slot.hdrErr with
  | some e => simp [seqFrame, frameFailed, hh] at h
  | none =>
    cases hd : s.slot.dataErr <;> by_cases hz : dout = [] ∧ nin = 0 <;>
      simp [seqFrame, frameFailed, frameDone, hh, hd, hz] at h ⊢

/-- A frame calls `Select()` once and `Deselect()` once (R160, R163). -/
theorem seqFrame_brackets (hdr dout : List Byte) (nin : Nat) (s : State) :
    (seqFrame hdr dout nin s).s.phases.count .selected = s.phases.count .selected + 1 ∧
    (seqFrame hdr dout nin s).s.phases.count .deselected = s.phases.count .deselected + 1 := by
  unfold seqFrame frameFailed frameDone
  dsimp only
  split
  · simp
  · split_ifs
    · simp
    · split <;> simp

/-! ### One step of an operation -/

/-- The frame of a point: header, data bytes sent, bytes received; none at the two clock samples and the wait (R165). -/
def pointFrame (op : Op) (pt : Point) (s : State) : Option (List Byte × List Byte × Nat) :=
  match pt with
  | .rsten => some ([s.cfg.ops.rsten], [], 0)
  | .rst => some ([s.cfg.ops.rst], [], 0)
  | .identify => some ([s.cfg.ops.rdid], [], 3)
  | .enable => some ([s.cfg.ops.wren], [], 0)
  | .latch | .poll | .cleared | .status => some ([s.cfg.ops.rdsr], [], 1)
  | .command => some ((latchCommand s op).1, (latchCommand s op).2, 0)
  | .disable => some ([s.cfg.ops.wrdi], [], 0)
  | .readBack | .transfer => some (s.cfg.ops.read :: addr24 (opRange op).1, [], (opRange op).2)
  | .slice => some (s.cfg.ops.read :: addr24 s.seq.ctx.a, [], s.cfg.verifySlice)
  | .config => some ([s.cfg.ops.rdcr], [], 1)
  | .sample | .test | .wait => none

theorem pointFrame_isSome (op : Op) (pt : Point) (s : State) : (pointFrame op pt s).isSome = !sendsNothing pt := by
  cases pt <;> rfl

/-- A step's frame failed: the operation returns the error, but for the identifier check of the bring-up, which goes on
with its loop (R190, R191). -/
def failedExit (p : Params) (op : Op) (pt : Point) (e : BusError) : Exit :=
  match op, pt with
  | .bringUp _, .identify => .goto (notYet p.tInitMs)
  | _, _ => .ret (.transportError e)

/-- What a step with a frame does to the trace, and how it ends when the frame fails. -/
structure FrameStep (op : Op) (pt : Point) (hdr dout : List Byte) (nin : Nat) (s : State) (r : Run) (st : Status)
    (rx : List Byte) : Prop where
  recorded : Recorded hdr dout nin s.trace r.2.trace st rx
  failed   : ∀ e, st = .transportError e → r.1 = failedExit s.cfg op pt e
  selected : r.2.phases.count .selected = s.phases.count .selected + 1
  deselected : r.2.phases.count .deselected = s.phases.count .deselected + 1
  status   : st = frameStatus s.slot dout nin
  sel      : r.2.seq.sel = false
  env      : r.2.env = s.env.tail
  clock    : r.2.clock = s.clock + s.slot.tick

/-- A result that records the frame `hdr ++ dout` after `s`. -/
structure FrameOf (hdr dout : List Byte) (nin : Nat) (s : State) (r : FrameResult) (st : Status) : Prop where
  recorded : Recorded hdr dout nin s.trace r.s.trace st r.rx
  selected : r.s.phases.count .selected = s.phases.count .selected + 1
  deselected : r.s.phases.count .deselected = s.phases.count .deselected + 1
  status   : st = frameStatus s.slot dout nin
  sel      : r.s.seq.sel = false
  env      : r.s.env = s.env.tail
  clock    : r.s.clock = s.clock + s.slot.tick

theorem seqFrame_of (hdr dout : List Byte) (nin : Nat) (s : State) :
    FrameOf hdr dout nin s (seqFrame hdr dout nin s) (seqFrame hdr dout nin s).st :=
  ⟨seqFrame_recorded .., (seqFrame_brackets ..).1, (seqFrame_brackets ..).2, seqFrame_status .., (seqFrame_ends ..).sel, (seqFrame_same ..).2.1, (seqFrame_same ..).2.2.1⟩

theorem readStatus_of (s : State) :
    FrameOf [s.cfg.ops.rdsr] [] 1 s (readStatus s) (readStatus s).st := by
  have h := seqFrame_of [s.cfg.ops.rdsr] [] 1 s
  unfold readStatus
  rcases seqFrame_st [s.cfg.ops.rdsr] [] 1 s with hs | ⟨e, hs⟩ <;> simp only [hs]
  · rw [hs] at h; exact ⟨h.recorded, h.selected, h.deselected, h.status, h.sel, h.env, h.clock⟩
  · rw [hs] at h; exact h

/-- A step that goes on only after `Ok`, with what leaves the trace, the clock and the brackets alone. -/
theorem FrameOf.onOk {op : Op} {pt : Point} {hdr dout : List Byte} {nin : Nat} {s : State} {r : FrameResult} {k : State → Run}
    (h : FrameOf hdr dout nin s r r.st) (hp : ∀ e, failedExit s.cfg op pt e = .ret (.transportError e))
    (g : ∀ t, (k t).2.trace = t.trace ∧ (k t).2.phases.count .selected = t.phases.count .selected ∧
      (k t).2.phases.count .deselected = t.phases.count .deselected ∧ (k t).2.env = t.env ∧ (k t).2.clock = t.clock ∧
      (k t).2.seq.sel = t.seq.sel) :
    FrameStep op pt hdr dout nin s (Machine.onOk r k) r.st r.rx := by
  obtain ⟨h1, h2, h3, h6, h7, h4, h5⟩ := h
  rcases onOk_cases r k with ⟨hs, e⟩ | ⟨hs, e⟩ <;> rw [e]
  · obtain ⟨g1, g2, g3, g4, g5, g6⟩ := g r.s
    refine ⟨by rw [g1]; exact h1, fun e he => ?_, by rw [g2, h2], by rw [g3, h3], h6, by rw [g6, h7], by rw [g4, h4], by rw [g5, h5]⟩
    rw [hs] at he; cases he
  · exact ⟨h1, fun e he => by rw [hp, he], h2, h3, h6, h7, h4, h5⟩

theorem failedExit_of_ne {p : Params} {op : Op} {pt : Point} {e : BusError} (h : pt ≠ .identify ∨ ∀ a, op ≠ .bringUp a) :
    failedExit p op pt e = .ret (.transportError e) := by
  unfold failedExit
  split
  · rcases h with h | h
    · exact absurd rfl h
    · exact absurd rfl (h _)
  · rfl

theorem checkId_of (s : State) :
    (checkId s).s = (seqFrame [s.cfg.ops.rdid] [] 3 s).s ∧ (checkId s).rx = (seqFrame [s.cfg.ops.rdid] [] 3 s).rx ∧
    ((checkId s).st = (seqFrame [s.cfg.ops.rdid] [] 3 s).st ∧
        ((checkId s).st = .ok → (checkId s).rx = idBytes s.cfg.expectedId) ∨
      (seqFrame [s.cfg.ops.rdid] [] 3 s).st = .ok ∧ (checkId s).st = .verificationFailure ∧
        (checkId s).rx ≠ idBytes s.cfg.expectedId) := by
  have hst := seqFrame_st [s.cfg.ops.rdid] [] 3 s
  unfold checkId
  generalize seqFrame [s.cfg.ops.rdid] [] 3 s = r at *
  obtain ⟨st, rx, t⟩ := r
  rcases hst with rfl | ⟨e, rfl⟩
  · dsimp only
    split_ifs with h
    · exact ⟨rfl, rfl, .inl ⟨rfl, fun _ => h⟩⟩
    · exact ⟨rfl, rfl, .inr ⟨rfl, rfl, h⟩⟩
  · exact ⟨rfl, rfl, .inl ⟨rfl, nofun⟩⟩

theorem identifyStep_of (op : Op) (s : State) :
    (identifyStep op s).2 = (checkId s).s ∧
    ∀ e, (seqFrame [s.cfg.ops.rdid] [] 3 s).st = .transportError e → (identifyStep op s).1 = failedExit s.cfg op .identify e := by
  obtain ⟨-, -, h⟩ := checkId_of s
  have hst : ∀ e, (seqFrame [s.cfg.ops.rdid] [] 3 s).st = .transportError e → (checkId s).st = .transportError e := by
    intro e he
    rcases h with ⟨h, -⟩ | ⟨h, -⟩
    · rw [h, he]
    · rw [h] at he; cases he
  unfold identifyStep
  cases op
  case bringUp =>
    dsimp only
    refine ⟨by split <;> rfl, fun e he => ?_⟩
    rw [hst e he]; rfl
  all_goals exact ⟨rfl, fun e he => by show Exit.ret (checkId s).st = _; rw [hst e he]; rfl⟩

/-- A step with a frame records that frame and no other. -/
theorem atPoint_frame {op : Op} {pt : Point} {s : State} {hdr dout : List Byte} {nin : Nat}
    (h : pointFrame op pt s = some (hdr, dout, nin)) :
    ∃ st rx, FrameStep op pt hdr dout nin s (atPoint op pt s) st rx := by
  have go : ∀ {hd dt : List Byte} {n : Nat} {r : FrameResult} {k : State → Run}, FrameOf hd dt n s r r.st → pt ≠ .identify →
      (∀ t, (k t).2.trace = t.trace ∧ (k t).2.phases.count .selected = t.phases.count .selected ∧
        (k t).2.phases.count .deselected = t.phases.count .deselected ∧ (k t).2.env = t.env ∧ (k t).2.clock = t.clock ∧
      (k t).2.seq.sel = t.seq.sel) →
      ∃ st rx, FrameStep op pt hd dt n s (onOk r k) st rx :=
    fun h hp g => ⟨_, _, h.onOk (fun e => failedExit_of_ne (.inl hp)) g⟩
  have quiet : ∀ t : State, t.trace = t.trace ∧ t.phases.count .selected = t.phases.count .selected ∧
      t.phases.count .deselected = t.phases.count .deselected ∧ t.env = t.env ∧ t.clock = t.clock ∧
      t.seq.sel = t.seq.sel :=
    fun t => ⟨rfl, rfl, rfl, rfl, rfl, rfl⟩
  have hread : ∀ a n, FrameOf (s.cfg.ops.read :: addr24 a) [] n s (readRange a n s) (readRange a n s).st := by
    intro a n
    obtain ⟨h1, h2, h3, h6, h7, h4, h5⟩ := seqFrame_of (s.cfg.ops.read :: addr24 a) [] n (s.withCtx { s.seq.ctx with a := a })
    exact ⟨h1, h2, h3, h6, h7, h4, h5⟩
  cases pt <;> simp only [pointFrame, Option.some.injEq, Prod.mk.injEq, reduceCtorEq] at h <;> obtain ⟨rfl, rfl, rfl⟩ := h
  case rsten => exact go (seqFrame_of ..) (by decide) quiet
  case rst => exact go (seqFrame_of ..) (by decide) quiet
  case enable => exact go (seqFrame_of ..) (by decide) quiet
  case command => exact go (seqFrame_of ..) (by decide) quiet
  case disable => exact go (seqFrame_of ..) (by decide) quiet
  case identify =>
    obtain ⟨h1, h2⟩ := identifyStep_of op s
    obtain ⟨h3, -, -⟩ := checkId_of s
    obtain ⟨g1, g2, g3, g6, g7, g4, g5⟩ := seqFrame_of [s.cfg.ops.rdid] [] 3 s
    rw [← h3, ← h1] at g1 g2 g3 g4 g5 g7
    exact ⟨_, _, g1, h2, g2, g3, g6, g7, g4, g5⟩
  case latch =>
    have hs : FrameOf [s.cfg.ops.rdsr] [] 1 s (readStatus (s.setPhase .latchCheck)) (readStatus (s.setPhase .latchCheck)).st := by
      obtain ⟨h1, h2, h3, h6, h7, h4, h5⟩ := readStatus_of (s.setPhase .latchCheck)
      exact ⟨h1, by simpa using h2, by simpa using h3, h6, h7, h4, h5⟩
    dsimp only [atPoint, latchCheck]
    refine go hs (by decide) fun t => ?_
    split_ifs <;> simp
  case poll =>
    dsimp only [atPoint, pollOnce]
    refine go (readStatus_of s) (by decide) fun t => ?_
    split_ifs
    · exact quiet t
    · cases op <;> exact quiet t
  case cleared =>
    dsimp only [atPoint, checkCleared]
    refine go (readStatus_of s) (by decide) fun t => ?_
    split_ifs <;> exact quiet t
  case readBack =>
    dsimp only [atPoint, readBackStep]
    refine go (hread _ _) (by decide) fun t => ?_
    split_ifs <;> exact quiet t
  case slice =>
    dsimp only [atPoint, sliceStep]
    refine go (hread _ _) (by decide) fun t => ?_
    split_ifs <;> exact quiet t
  case transfer =>
    obtain ⟨h1, h2, h3, h6, h7, h4, h5⟩ := hread (opRange op).1 (opRange op).2
    exact ⟨_, _, h1, fun e he => (congrArg Exit.ret he).trans (failedExit_of_ne (.inl (by decide))).symm, h2, h3, h6, h7, h4, h5⟩
  case status =>
    obtain ⟨h1, h2, h3, h6, h7, h4, h5⟩ := readStatus_of s
    exact ⟨_, _, h1, fun e he => (congrArg Exit.ret he).trans (failedExit_of_ne (.inl (by decide))).symm, h2, h3, h6, h7, h4, h5⟩
  case config =>
    obtain ⟨h1, h2, h3, h6, h7, h4, h5⟩ := seqFrame_of [s.cfg.ops.rdcr] [] 1 s
    exact ⟨_, _, h1, fun e he => (congrArg Exit.ret he).trans (failedExit_of_ne (.inl (by decide))).symm, h2, h3, h6, h7, h4, h5⟩

/-- A step without a frame adds nothing to the trace and the phases (R6). -/
theorem atPoint_quiet {op : Op} {pt : Point} {s : State} (h : sendsNothing pt = true) :
    (atPoint op pt s).2.trace = s.trace ∧ (atPoint op pt s).2.phases = s.phases ∧ (atPoint op pt s).2.env = s.env.tail := by
  cases pt <;> simp only [sendsNothing, reduceCtorEq] at h
  case sample => exact ⟨rfl, rfl, rfl⟩
  case test => simp only [atPoint, timeTest]; split_ifs <;> exact ⟨rfl, rfl, rfl⟩
  case wait => exact ⟨rfl, rfl, rfl⟩

end Sys2Proof.Machine
end

