-- ==== Sys2Proof/Laws/Points.lean ====
section
/-! SUPPORT. Where one step of an operation can lead, said once: the exits of each point of the pseudocode, and a transport
failure; and what a step does to the context registers (R165, R180, R190). -/

namespace Sys2Proof.Machine

/-- What can come after the step at a point, transport failures apart. -/
def exits (p : Params) (op : Op) : Point → List Exit
  | .rsten => [.goto .rst]
  | .rst => [afterReset op]
  | .sample | .wait => [.goto (loopHead op)]
  | .identify =>
    match op with
    | .bringUp _ => [.goto .enable, .goto (notYet p.tInitMs)]
    | .reset | .read _ _ _ | .write _ _ _ | .eraseSector _ _ | .verifySectorErased _ _ | .busyPoll _ | .checkId | .readStatus
    | .readConfig | .writeEnable | .writeDisable | .writeStatus _ _ | .unlockAllBlocks => [.ret .ok, .ret .verificationFailure]
  | .enable => [afterEnable op]
  | .latch => [.goto .command, .ret .protocolViolation]
  | .command => [afterCommand p op]
  | .poll =>
    match op with
    | .write _ _ _ => [.goto (notYet p.tProgMs), .goto .enable, .goto .disable]
    | .eraseSector _ _ => [.goto (notYet p.tEraseMs), .goto .disable]
    | .bringUp _ | .reset | .read _ _ _ | .verifySectorErased _ _ | .busyPoll _ | .checkId | .readStatus | .readConfig
    | .writeEnable | .writeDisable | .writeStatus _ _ | .unlockAllBlocks => [.goto (notYet (waitBound p op)), .ret .ok]
  | .test => [.goto .wait, .ret .timeout]
  | .disable => [afterDisable p op]
  | .cleared => [afterCleared p op, .ret .protocolViolation]
  | .readBack => [.ret .ok, .ret .verificationFailure]
  | .slice => [.goto .slice, .ret .ok, .ret .verificationFailure]
  | .transfer | .status | .config => [.ret .ok]

theorem readStatus_cfg (s : State) : (readStatus s).s.cfg = s.cfg := (readStatus_ends s).keeps.cfg

/-- `readStatus` returns `Ok` or a transport error (R166). -/
theorem readStatus_st (s : State) : (readStatus s).st = .ok ∨ ∃ e, (readStatus s).st = .transportError e := by
  unfold readStatus
  rcases seqFrame_st [s.cfg.ops.rdsr] [] 1 s with hs | ⟨e, hs⟩ <;> simp only [hs]
  · exact .inl trivial
  · exact .inr ⟨e, rfl⟩

/-- What `readStatus` does: one RDSR frame; either its byte is in `SEQ.SRS` and the status is `Ok`, or its error is the
status (R166). -/
theorem readStatus_read (s : State) : ∃ r, (readStatus s).s.trace = s.trace ++ [r] ∧ r.tx = [s.cfg.ops.rdsr] ∧
    ((r.err = none ∧ (readStatus s).st = .ok ∧ r.rx = [(readStatus s).s.seq.ctx.srs]) ∨
      ∃ e, r.err = some e ∧ (readStatus s).st = .transportError e) := by
  have h := seqFrame_recorded [s.cfg.ops.rdsr] [] 1 s
  unfold readStatus
  rcases h with ⟨len, st, tr⟩ | ⟨sent, e, so, st, tr⟩ <;> simp only [st]
  · obtain ⟨b, hb⟩ := List.length_eq_one_iff.mp len
    exact ⟨_, tr, rfl, .inl ⟨rfl, trivial, by simp [hb, firstByte]⟩⟩
  · exact ⟨_, tr, by rcases so with rfl | rfl <;> rfl, .inr ⟨e, rfl, rfl⟩⟩

/-- A step that goes on only after `Ok`: its exit. -/
theorem onOk_exit {r : FrameResult} {k : State → Run} {l : List Exit} (h : r.st = .ok ∨ ∃ e, r.st = .transportError e)
    (g : (k r.s).1 ∈ l) : (onOk r k).1 ∈ l ∨ ∃ e, (onOk r k).1 = .ret (.transportError e) := by
  rcases onOk_cases r k with ⟨_, e⟩ | ⟨hn, e⟩ <;> rw [e]
  · exact .inl g
  · rcases h with h | ⟨e, h⟩
    · exact absurd h hn
    · exact .inr ⟨e, by rw [h]⟩

/-- Where a step leads: to one of the exits of its point, or to the return of a transport failure. -/
theorem atPoint_exit (op : Op) (pt : Point) (s : State) :
    (atPoint op pt s).1 ∈ exits s.cfg op pt ∨
      (sendsNothing pt = false ∧ ∃ e, (atPoint op pt s).1 = .ret (.transportError e)) := by
  have frame : ∀ {hd dt n} {k : State → Run} {l : List Exit}, (k (seqFrame hd dt n s).s).1 ∈ l →
      (onOk (seqFrame hd dt n s) k).1 ∈ l ∨ ∃ e, (onOk (seqFrame hd dt n s) k).1 = .ret (.transportError e) :=
    fun g => onOk_exit (seqFrame_st ..) g
  have also : ∀ {P : Prop}, (P ∨ ∃ e, (atPoint op pt s).1 = .ret (.transportError e)) → sendsNothing pt = false →
      P ∨ (sendsNothing pt = false ∧ ∃ e, (atPoint op pt s).1 = .ret (.transportError e)) :=
    fun h hs => h.imp_right fun h => ⟨hs, h⟩
  cases pt
  case rsten => exact also (frame (by simp [exits])) rfl
  case rst => exact also (frame (by simp [exits])) rfl
  case enable => exact also (frame (by simp [exits])) rfl
  case command => exact also (frame (by simp [exits])) rfl
  case disable => exact also (frame (by simp [exits])) rfl
  case sample => exact .inl (by simp [atPoint, exits])
  case wait => exact .inl (by simp [atPoint, exits])
  case identify =>
    refine also ?_ rfl
    have hst : (checkId s).st = .ok ∨ (checkId s).st = .verificationFailure ∨ ∃ e, (checkId s).st = .transportError e := by
      obtain ⟨-, -, ⟨h, -⟩ | ⟨-, h, -⟩⟩ := checkId_of s
      · rcases seqFrame_st [s.cfg.ops.rdid] [] 3 s with hs | ⟨e, hs⟩
        · exact .inl (h.trans hs)
        · exact .inr (.inr ⟨e, h.trans hs⟩)
      · exact .inr (.inl h)
    simp only [atPoint, identifyStep, exits]
    cases op <;> rcases hst with h | h | ⟨e, h⟩ <;> simp [h, waitBound]
  case latch =>
    refine also (onOk_exit (readStatus_st _) ?_) rfl
    simp only [exits]
    split_ifs <;> simp
  case poll =>
    refine also (onOk_exit (readStatus_st _) ?_) rfl
    simp only [exits]
    split_ifs
    · cases op <;> simp [waitBound]
    · cases op
      case write =>
        have h : ∀ w : Word, chunkPoint w = .enable ∨ chunkPoint w = .disable := fun w => by
          unfold chunkPoint; split_ifs <;> simp
        rcases h (advanceCursor (readStatus s).s.seq.ctx.n.toNat (readStatus s).s).seq.ctx.rem with h | h <;>
          simp [whenReady, h]
      all_goals simp [whenReady]
  case test =>
    refine .inl ?_
    simp only [atPoint, timeTest, exits]
    split_ifs <;> simp
  case cleared =>
    refine also (onOk_exit (readStatus_st _) ?_) rfl
    simp only [exits]
    split_ifs <;> simp
  case readBack =>
    refine also (onOk_exit (seqFrame_st ..) ?_) rfl
    simp only [exits]
    split_ifs <;> simp
  case slice =>
    refine also (onOk_exit (seqFrame_st ..) ?_) rfl
    simp only [exits]
    split_ifs <;> simp
  case transfer =>
    refine also ?_ rfl
    rcases seqFrame_st (s.cfg.ops.read :: addr24 (opRange op).1) [] (opRange op).2
      (s.withCtx { s.seq.ctx with a := (opRange op).1 }) with h | ⟨e, h⟩
    · exact .inl (by simp [atPoint, deliverFrame, readRange, exits, h])
    · exact .inr ⟨e, by simp [atPoint, deliverFrame, readRange, h]⟩
  case status =>
    refine also ?_ rfl
    rcases readStatus_st s with h | ⟨e, h⟩
    · exact .inl (by simp [atPoint, deliverFrame, exits, h])
    · exact .inr ⟨e, by simp [atPoint, deliverFrame, h]⟩
  case config =>
    refine also ?_ rfl
    rcases seqFrame_st [s.cfg.ops.rdcr] [] 1 s with h | ⟨e, h⟩
    · exact .inl (by simp [atPoint, deliverFrame, readConfig, exits, h])
    · exact .inr ⟨e, by simp [atPoint, deliverFrame, readConfig, h]⟩

/-! ### The context registers -/

/-- `readStatus` writes `SEQ.SRS` and no other register (R166). -/
theorem readStatus_ctx (s : State) : ∃ b, (readStatus s).s.seq.ctx = { s.seq.ctx with srs := b } := by
  have h := (seqFrame_same [s.cfg.ops.rdsr] [] 1 s).1
  unfold readStatus
  rcases seqFrame_st [s.cfg.ops.rdsr] [] 1 s with hs | ⟨e, hs⟩ <;> simp only [hs]
  · exact ⟨_, by rw [State.withCtx_ctx, h]⟩
  · exact ⟨_, h⟩

/-- The points whose step moves no register of the cursor: all but those of `read`, the read-back and the erase check, which
write `SEQ.A`, and the poll of a write, which moves it on. -/
theorem atPoint_ctx {op : Op} {pt : Point} (h : pt ≠ .readBack ∧ pt ≠ .slice ∧ pt ≠ .transfer)
    (hp : pt = .poll → ∀ a x n, op ≠ .write a x n) (s : State) :
    ∃ b t0, (atPoint op pt s).2.seq.ctx = { s.seq.ctx with srs := b, t0 := t0 } ∧ (pt ≠ .sample → t0 = s.seq.ctx.t0) := by
  have frame : ∀ {hd dt : List Byte} {x : Exit}, ∃ b t0, (sendFrame hd dt x s).2.seq.ctx = { s.seq.ctx with srs := b, t0 := t0 } ∧
      (pt ≠ .sample → t0 = s.seq.ctx.t0) := by
    intro hd dt x
    refine ⟨s.seq.ctx.srs, s.seq.ctx.t0, ?_, fun _ => rfl⟩
    unfold sendFrame
    rcases onOk_cases (seqFrame hd dt 0 s) fun s1 => (x, s1) with ⟨_, e⟩ | ⟨_, e⟩ <;> rw [e] <;>
      exact (seqFrame_same hd dt 0 s).1
  have status : ∀ {s' : State} {k : State → Run}, s'.seq.ctx = s.seq.ctx →
      (∀ t, (k t).2.seq.ctx = t.seq.ctx) →
      ∃ b t0, (onOk (readStatus s') k).2.seq.ctx = { s.seq.ctx with srs := b, t0 := t0 } ∧ (pt ≠ .sample → t0 = s.seq.ctx.t0) := by
    intro s' k hs g
    obtain ⟨b, hb⟩ := readStatus_ctx s'
    refine ⟨b, s.seq.ctx.t0, ?_, fun _ => rfl⟩
    rcases onOk_cases (readStatus s') k with ⟨_, e⟩ | ⟨_, e⟩ <;> rw [e]
    · rw [g, hb, hs]
    · rw [hb, hs]
  cases pt
  case rsten => exact frame
  case rst => exact frame
  case enable => exact frame
  case command => exact frame
  case disable => exact frame
  case sample => exact ⟨s.seq.ctx.srs, _, rfl, fun h => absurd rfl h⟩
  case wait => exact ⟨s.seq.ctx.srs, _, rfl, fun _ => rfl⟩
  case test =>
    refine ⟨s.seq.ctx.srs, s.seq.ctx.t0, ?_, fun _ => rfl⟩
    simp only [atPoint, timeTest]
    split_ifs <;> rfl
  case identify =>
    refine ⟨s.seq.ctx.srs, s.seq.ctx.t0, ?_, fun _ => rfl⟩
    show (identifyStep op s).2.seq.ctx = _
    rw [(identifyStep_of op s).1, (checkId_of s).1, (seqFrame_same ..).1]
  case latch =>
    dsimp only [atPoint, latchCheck]
    exact status rfl fun t => by split_ifs <;> rfl
  case poll =>
    dsimp only [atPoint, pollOnce]
    refine status rfl fun t => ?_
    split_ifs
    · rfl
    · cases op <;> first | rfl | exact absurd rfl (hp rfl _ _ _)
  case cleared =>
    dsimp only [atPoint, checkCleared]
    exact status rfl fun t => by split_ifs <;> rfl
  case status =>
    obtain ⟨b, hb⟩ := readStatus_ctx s
    exact ⟨b, _, hb, fun _ => rfl⟩
  case config => exact ⟨s.seq.ctx.srs, s.seq.ctx.t0, (seqFrame_same ..).1, fun _ => rfl⟩
  case readBack => exact absurd rfl h.1
  case slice => exact absurd rfl h.2.1
  case transfer => exact absurd rfl h.2.2

end Sys2Proof.Machine
end

