-- ==== Sys2Proof/Laws/Runs.lean ====
section
/-! SUPPORT. What the steps of an operation do when the bus does not fail: `Ran` says where a step leaves the machine,
`Reaches` where the steps of an operation lead, and one lemma per point gives its step on a device that listens. -/

namespace Sys2Proof.Machine

/-! ### Schedules -/

theorem BusOk.slot {s : State} (h : BusOk s) : s.slot.noError := by
  unfold State.slot
  cases he : s.env with
  | nil => exact h.2
  | cons a l => exact h.1 a (he ▸ List.mem_cons_self)

theorem BusOk.of_tail {s t : State} (h : BusOk s) (he : t.env = s.env.tail) (hr : t.rest = s.rest) : BusOk t :=
  ⟨fun sl hs => h.1 sl (List.mem_of_mem_tail (he ▸ hs)), hr ▸ h.2⟩

theorem Eager.slot {s : State} (h : Eager s) : s.slot.complete = true := by
  unfold State.slot
  cases he : s.env with
  | nil => exact h.2
  | cons a l => exact h.1 a (he ▸ List.mem_cons_self)

theorem Eager.of_tail {s t : State} (h : Eager s) (he : t.env = s.env.tail) (hr : t.rest = s.rest) : Eager t :=
  ⟨fun sl hs => h.1 sl (List.mem_of_mem_tail (he ▸ hs)), hr ▸ h.2⟩

theorem NeverCompletes.slot {s : State} (h : NeverCompletes s) : s.slot.complete = false := by
  unfold State.slot
  cases he : s.env with
  | nil => exact h.2
  | cons a l => exact h.1 a (he ▸ List.mem_cons_self)

theorem NeverCompletes.of_tail {s t : State} (h : NeverCompletes s) (he : t.env = s.env.tail) (hr : t.rest = s.rest) :
    NeverCompletes t :=
  ⟨fun sl hs => h.1 sl (List.mem_of_mem_tail (he ▸ hs)), hr ▸ h.2⟩

theorem engineComplete_of_none {d : Dev} (h : d.pend = .none) : engineComplete d = d := by
  unfold engineComplete; rw [h]

theorem devAtFrame_of_none {s : State} (h : s.dev.pend = .none) : devAtFrame s = s.dev := by
  unfold devAtFrame; split_ifs
  · exact engineComplete_of_none h
  · rfl

theorem devAtFrame_of_eager {s : State} (h : Eager s) : devAtFrame s = engineComplete s.dev := by
  unfold devAtFrame; rw [if_pos h.slot]

@[simp] theorem pass_dev_eq (s : State) : s.pass.dev = devAtFrame s := rfl

/-! ### Runs of frames -/

/-- From `s` to `t` the sequencer sent the frames `fs`, none of which failed, and left the device as `d`. -/
structure Ran (s t : State) (d : Dev) (fs : List (List Byte)) : Prop where
  cfg   : t.cfg = s.cfg
  dev   : t.dev = d
  sent  : sentFrames t = sentFrames s ++ fs
  host  : t.host = s.host
  inbox : t.inbox = s.inbox
  rest  : t.rest = s.rest
  sel   : s.seq.sel = false ∨ fs ≠ [] → t.seq.sel = false
  clock : s.clock ≤ t.clock
  bus   : BusOk t
  eager : Eager s → Eager t
  never : NeverCompletes s → NeverCompletes t

theorem Ran.refl {s : State} (h : BusOk s) : Ran s s s.dev [] :=
  ⟨rfl, rfl, by simp, rfl, rfl, rfl, by simp, Nat.le_refl _, h, id, id⟩

theorem Ran.trans {s t u : State} {d e : Dev} {fs gs : List (List Byte)} (h : Ran s t d fs) (g : Ran t u e gs) :
    Ran s u e (fs ++ gs) where
  cfg := g.cfg.trans h.cfg
  dev := g.dev
  sent := by rw [g.sent, h.sent, List.append_assoc]
  host := g.host.trans h.host
  inbox := g.inbox.trans h.inbox
  rest := g.rest.trans h.rest
  sel := by
    intro hs
    apply g.sel
    by_cases hg : gs = []
    · exact .inl (h.sel (by simpa [hg] using hs))
    · exact .inr hg
  clock := Nat.le_trans h.clock g.clock
  bus := g.bus
  eager := g.eager ∘ h.eager
  never := g.never ∘ h.never

/-- A write of the context registers is no frame. -/
theorem Ran.withCtx {s : State} (h : BusOk s) (c : Context) : Ran s (s.withCtx c) s.dev [] :=
  ⟨rfl, rfl, by simp [sentFrames], rfl, rfl, rfl, by simp, Nat.le_refl _, h, id, id⟩

/-- Standing at another point is no frame. -/
theorem Ran.withTask {s : State} (h : BusOk s) (x : Task) : Ran s (s.withTask x) s.dev [] :=
  ⟨rfl, rfl, by simp [sentFrames], rfl, rfl, rfl, by simp, Nat.le_refl _, h, id, id⟩

/-- A clock sample is no frame; what is in flight may complete. -/
theorem Ran.pass {s : State} (h : BusOk s) : Ran s s.pass (devAtFrame s) [] :=
  ⟨rfl, rfl, by simp [sentFrames], rfl, rfl, rfl, by simp, by simp, h.of_tail rfl rfl,
    fun e => e.of_tail rfl rfl, fun e => e.of_tail rfl rfl⟩

theorem Ran.sampleT0 {s : State} (h : BusOk s) : Ran s s.sampleT0 (devAtFrame s) [] :=
  (Ran.pass h).trans (Ran.withCtx (Ran.pass h).bus _)

/-- A wait is no frame (R174, R268). -/
theorem Ran.waitPoll {s : State} (h : BusOk s) : Ran s s.waitPoll (devAtFrame s) [] :=
  ⟨rfl, rfl, by simp [sentFrames], rfl, rfl, rfl, by simp, by rw [State.waitPoll_clock]; omega, h.of_tail rfl rfl,
    fun e => e.of_tail rfl rfl, fun e => e.of_tail rfl rfl⟩

/-- A frame that is the command `i`, none of whose calls fails. -/
theorem seqFrame_ran {s : State} (h : BusOk s) {hdr dout : List Byte} {nin : Nat} {i : Instr}
    (hi : decodeFrame s.cfg.ops (hdr ++ dout) nin = .ok i) :
    (seqFrame hdr dout nin s).st = .ok ∧
    (seqFrame hdr dout nin s).rx = (devFrame s.cfg s.draw i (devAtFrame s)).rx ∧
    (seqFrame hdr dout nin s).s.seq.ctx = s.seq.ctx ∧
    Ran s (seqFrame hdr dout nin s).s (devFrame s.cfg s.draw i (devAtFrame s)).dev [hdr ++ dout] := by
  obtain ⟨h1, h2, h3, h4⟩ := seqFrame_ok h.slot hdr dout nin
  obtain ⟨g1, g2, g3, g4⟩ := seqFrame_same hdr dout nin s
  have hc : ∀ d, devConsume s.cfg s.draw (hdr ++ dout) nin d = devFrame s.cfg s.draw i d := by
    intro d; unfold devConsume; rw [hi]
  have k := seqFrame_ends hdr dout nin s
  rw [hc] at h2 h3
  exact ⟨h1, h2, g1, k.keeps.cfg, h3, by simp [sentFrames, h4], g4, k.keeps.inbox, k.keeps.rest,
    fun _ => k.sel, k.keeps.clock, h.of_tail g2 k.keeps.rest, fun e => e.of_tail g2 k.keeps.rest,
    fun e => e.of_tail g2 k.keeps.rest⟩

/-- The same of one slot in which nothing fails: what the next frame gives. -/
theorem seqFrame_command {s : State} (h : s.slot.noError) {hdr dout : List Byte} {nin : Nat} {i : Instr}
    (hi : decodeFrame s.cfg.ops (hdr ++ dout) nin = .ok i) :
    (seqFrame hdr dout nin s).st = .ok ∧ (seqFrame hdr dout nin s).rx = (devFrame s.cfg s.draw i (devAtFrame s)).rx ∧
    (seqFrame hdr dout nin s).s.dev = (devFrame s.cfg s.draw i (devAtFrame s)).dev ∧
    sentFrames (seqFrame hdr dout nin s).s = sentFrames s ++ [hdr ++ dout] := by
  obtain ⟨h1, h2, h3, h4⟩ := seqFrame_ok h hdr dout nin
  have hc : ∀ d, devConsume s.cfg s.draw (hdr ++ dout) nin d = devFrame s.cfg s.draw i d := by
    intro d; unfold devConsume; rw [hi]
  rw [hc] at h2 h3
  exact ⟨h1, h2, h3, by simp [sentFrames, h4]⟩

/-- What a frame leaves alone, failed or not (R163). -/
theorem seqFrame_fixed (hdr dout : List Byte) (nin : Nat) (s : State) :
    (seqFrame hdr dout nin s).s.cfg = s.cfg ∧ (seqFrame hdr dout nin s).s.inbox = s.inbox ∧
    (seqFrame hdr dout nin s).s.rest = s.rest ∧ (seqFrame hdr dout nin s).s.host = s.host ∧
    (seqFrame hdr dout nin s).s.seq.sel = false :=
  have k := seqFrame_ends hdr dout nin s
  ⟨k.keeps.cfg, k.keeps.inbox, k.keeps.rest, (seqFrame_same ..).2.2.2, k.sel⟩

/-! ### What the frames of the sequencer decode to (R91, R165) -/

section
variable {p : Params} (h : validParams p = true)
include h

theorem decode_wren : decodeFrame p.ops ([p.ops.wren] ++ []) 0 = .ok .wren :=
  decodeFrame_byte (paramFacts h).distinct .wren _ _
theorem decode_wrdi : decodeFrame p.ops ([p.ops.wrdi] ++ []) 0 = .ok .wrdi :=
  decodeFrame_byte (paramFacts h).distinct .wrdi _ _
theorem decode_ulbpr : decodeFrame p.ops ([p.ops.ulbpr] ++ []) 0 = .ok .ulbpr :=
  decodeFrame_byte (paramFacts h).distinct .ulbpr _ _
theorem decode_rsten : decodeFrame p.ops ([p.ops.rsten] ++ []) 0 = .ok .rsten :=
  decodeFrame_byte (paramFacts h).distinct .rsten _ _
theorem decode_rst : decodeFrame p.ops ([p.ops.rst] ++ []) 0 = .ok .rst :=
  decodeFrame_byte (paramFacts h).distinct .rst _ _
theorem decode_rdsr : decodeFrame p.ops ([p.ops.rdsr] ++ []) 1 = .ok (.rdsr 1) :=
  decodeFrame_byte (paramFacts h).distinct .rdsr _ _
theorem decode_rdcr : decodeFrame p.ops ([p.ops.rdcr] ++ []) 1 = .ok (.rdcr 1) :=
  decodeFrame_byte (paramFacts h).distinct .rdcr _ _
theorem decode_rdid : decodeFrame p.ops ([p.ops.rdid] ++ []) 3 = .ok (.rdid 3) :=
  decodeFrame_byte (paramFacts h).distinct .rdid _ _
theorem decode_wrsr (st cf : Byte) : decodeFrame p.ops ([p.ops.wrsr] ++ [st, cf]) 0 = .ok (.wrsr st cf) :=
  decodeFrame_byte (paramFacts h).distinct .wrsr _ _

theorem decode_read (a : Word) (n : Nat) :
    decodeFrame p.ops ((p.ops.read :: addr24 a) ++ []) n = .ok (.read (maskAddr a) n) :=
  (decodeFrame_byte (paramFacts h).distinct .read _ _).trans (by simp [decodeBody, decodeFAR, addr24, bytes24])

theorem decode_se (a : Word) : decodeFrame p.ops ((p.ops.se :: addr24 a) ++ []) 0 = .ok (.se (maskAddr a)) :=
  (decodeFrame_byte (paramFacts h).distinct .se _ _).trans (by simp [decodeBody, decodeFA, addr24, bytes24])

theorem decode_pp (a : Word) {d : List Byte} (h1 : 1 ≤ d.length) (h2 : d.length ≤ pageSize) :
    decodeFrame p.ops ((p.ops.pp :: addr24 a) ++ d) 0 = .ok (.pp (maskAddr a) d) :=
  (decodeFrame_byte (paramFacts h).distinct .pp _ _).trans (by simp [decodeBody, decodeFAW, addr24, bytes24, h1, h2])

end

/-! ### The points of an operation on a device that listens -/

theorem Listening.accepts {d : Dev} (h : Listening d) (i : Instr) : Accepts d i := ⟨.inl h.2.2, .inl h.1⟩

theorem Listening.at_frame {s : State} (h : Listening s.dev) : devAtFrame s = s.dev := devAtFrame_of_none h.2.1

/-- A frame without data on a listening device: the command's own rule. -/
theorem sendFrame_listening {s : State} (hb : BusOk s) (hl : Listening s.dev) {hdr dout : List Byte} {i : Instr} (x : Exit)
    (hi : decodeFrame s.cfg.ops (hdr ++ dout) 0 = .ok i) (hw : i.wf s.cfg = true) :
    ∃ t, sendFrame hdr dout x s = (x, t) ∧ t.seq.ctx = s.seq.ctx ∧
      Ran s t (ownRule s.cfg s.draw s.dev.arm i { s.dev with arm := isRsten i }).dev [hdr ++ dout] := by
  obtain ⟨h1, _, h3, h4⟩ := seqFrame_ran hb hi
  rw [hl.at_frame, devFrame_accepted (hl.accepts i) hw] at h4
  exact ⟨_, onOk_ok h1 _, h3, h4⟩

/-- The write-enable of an operation (R168). -/
theorem enable_listening {s : State} (hv : validParams s.cfg = true) (hb : BusOk s) (hl : Listening s.dev) (op : Op) :
    ∃ t, atPoint op .enable s = (afterEnable op, t) ∧ t.seq.ctx = s.seq.ctx ∧
      Ran s t { s.dev with arm := false, wel := true } [[s.cfg.ops.wren]] :=
  sendFrame_listening hb hl _ (decode_wren hv) rfl

/-- The write-disable of an operation (R169). -/
theorem disable_listening {s : State} (hv : validParams s.cfg = true) (hb : BusOk s) (hl : Listening s.dev) (op : Op) :
    ∃ t, atPoint op .disable s = (afterDisable s.cfg op, t) ∧ t.seq.ctx = s.seq.ctx ∧
      Ran s t { s.dev with arm := false, wel := false } [[s.cfg.ops.wrdi]] :=
  sendFrame_listening hb hl _ (decode_wrdi hv) rfl

/-- The command that consumes the latch (R170). -/
theorem command_listening {s : State} (hb : BusOk s) (hl : Listening s.dev) (op : Op) {i : Instr}
    (hi : decodeFrame s.cfg.ops ((latchCommand s op).1 ++ (latchCommand s op).2) 0 = .ok i) (hw : i.wf s.cfg = true) :
    ∃ t, atPoint op .command s = (afterCommand s.cfg op, t) ∧ t.seq.ctx = s.seq.ctx ∧
      Ran s t (ownRule s.cfg s.draw s.dev.arm i { s.dev with arm := isRsten i }).dev
        [(latchCommand s op).1 ++ (latchCommand s op).2] :=
  sendFrame_listening hb hl _ hi hw

/-- A read-status on a device that is not in deep power-down: the byte's BUSY and WEL are the device's (R124). -/
theorem readStatus_awake {s : State} (hv : validParams s.cfg = true) (hb : BusOk s) (hd : (devAtFrame s).dpd = false) :
    ∃ b, (readStatus s).st = .ok ∧ (readStatus s).rx = [b] ∧
      byteBusy b = (devAtFrame s).busy ∧ byteWel b = (devAtFrame s).wel ∧
      (readStatus s).s.seq.ctx = { s.seq.ctx with srs := b } ∧
      Ran s (readStatus s).s { devAtFrame s with arm := false } [[s.cfg.ops.rdsr]] := by
  obtain ⟨h1, h2, h3, h4⟩ := seqFrame_ran hb (decode_rdsr hv)
  rw [devFrame_accepted ⟨.inl hd, .inr rfl⟩ rfl] at h2 h4
  have h5 : (seqFrame [s.cfg.ops.rdsr] [] 1 s).rx = [statusByte s.draw { devAtFrame s with arm := false }] := h2
  refine ⟨_, ?_, ?_, byteBusy_statusByte s.draw { devAtFrame s with arm := false },
    byteWel_statusByte s.draw { devAtFrame s with arm := false }, ?_, ?_⟩
  · unfold readStatus; simp only [h1]
  · unfold readStatus; simp only [h1]; exact h5
  · unfold readStatus; simp only [h1, State.withCtx_ctx, h3, h5, firstByte, List.headD_cons]
  · unfold readStatus; simp only [h1]
    have := h4.trans (Ran.withCtx h4.bus
      { (seqFrame [s.cfg.ops.rdsr] [] 1 s).s.seq.ctx with srs := firstByte (seqFrame [s.cfg.ops.rdsr] [] 1 s).rx })
    rw [h4.dev] at this
    exact this

/-- The latch check of a device that is not in deep power-down: the command comes when WEL = 1, and `ProtocolViolation` is
returned when WEL = 0 (R172). -/
theorem latch_awake {s : State} (hv : validParams s.cfg = true) (hb : BusOk s) (hd : (devAtFrame s).dpd = false) (op : Op) :
    ∃ t b, atPoint op .latch s = (if (devAtFrame s).wel = true then .goto .command else .ret .protocolViolation, t) ∧
      t.seq.ctx = { s.seq.ctx with srs := b } ∧ Ran s t { devAtFrame s with arm := false } [[s.cfg.ops.rdsr]] := by
  have hb1 : BusOk (s.setPhase .latchCheck) := hb
  obtain ⟨b, h1, _, _, h5, h6, h7⟩ := readStatus_awake (s := s.setPhase .latchCheck) hv hb1 hd
  have hd1 : devAtFrame (s.setPhase .latchCheck) = devAtFrame s := rfl
  rw [hd1] at h5 h7
  have h8 : Ran s (readStatus (s.setPhase .latchCheck)).s { devAtFrame s with arm := false } [[s.cfg.ops.rdsr]] :=
    ⟨h7.cfg, h7.dev, h7.sent, h7.host, h7.inbox, h7.rest, fun _ => h7.sel (.inr nofun), h7.clock, h7.bus, h7.eager, h7.never⟩
  dsimp only [atPoint, latchCheck]
  rw [onOk_ok h1]
  by_cases hw : (devAtFrame s).wel = true
  · exact ⟨_, b, by simp only [h6, h5, hw, if_true], h6, h8⟩
  · refine ⟨(((readStatus (s.setPhase .latchCheck)).s.setPhase .reject).setPhase .idle), b,
      by simp [h6, h5, hw], h6, ?_⟩
    exact ⟨h8.cfg, h8.dev, h8.sent, h8.host, h8.inbox, h8.rest, h8.sel, h8.clock, h8.bus, h8.eager, h8.never⟩

/-- A poll of a device that is not in deep power-down (R174): ready, the loop is left; busy, the timeout test or the wait is
next. -/
theorem poll_awake {s : State} (hv : validParams s.cfg = true) (hb : BusOk s) (hd : (devAtFrame s).dpd = false) (op : Op) :
    ∃ t b, atPoint op .poll s =
        (if (devAtFrame s).busy = true then (.goto (notYet (waitBound s.cfg op)), t) else whenReady op t) ∧
      t.seq.ctx = { s.seq.ctx with srs := b } ∧ Ran s t { devAtFrame s with arm := false } [[s.cfg.ops.rdsr]] := by
  obtain ⟨b, h1, _, h4, _, h6, h7⟩ := readStatus_awake hv hb hd
  refine ⟨_, b, ?_, h6, h7⟩
  dsimp only [atPoint, pollOnce]
  rw [onOk_ok h1, h6, h4]

/-- The last check of an operation passes on a listening device whose latch is clear (R179). -/
theorem cleared_clear {s : State} (hv : validParams s.cfg = true) (hb : BusOk s) (hl : Listening s.dev)
    (hw : s.dev.wel = false) (ha : s.dev.arm = false) (op : Op) :
    ∃ t b, atPoint op .cleared s = (afterCleared s.cfg op, t) ∧ t.seq.ctx = { s.seq.ctx with srs := b } ∧
      Ran s t s.dev [[s.cfg.ops.rdsr]] := by
  obtain ⟨b, h1, _, _, h5, h6, h7⟩ := readStatus_awake hv hb (by rw [hl.at_frame]; exact hl.2.2)
  refine ⟨_, b, ?_, h6, ?_⟩
  · dsimp only [atPoint, checkCleared]
    rw [onOk_ok h1, h6, h5, hl.at_frame, hw]; rfl
  · rw [hl.at_frame] at h7
    have : { s.dev with arm := false } = s.dev := by rw [← ha]
    rwa [this] at h7

/-- A read on a listening device: the bytes of the array (R129, R193). -/
theorem readRange_listening {s : State} (hv : validParams s.cfg = true) (hb : BusOk s)
    (h1 : (devAtFrame s).busy = false) (h2 : (devAtFrame s).dpd = false) (a : Word) (n : Nat) :
    ∃ c, (readRange a n s).st = .ok ∧
      (readRange a n s).rx = readBytes (devAtFrame s).mem s.cfg.deviceSize (deviceAddr s.cfg (maskAddr a)) n ∧
      (readRange a n s).s.seq.ctx = { s.seq.ctx with a := a } ∧
      Ran s (readRange a n s).s { devAtFrame s with arm := false, ac := c } [s.cfg.ops.read :: addr24 a] := by
  have h0 := Ran.withCtx hb { s.seq.ctx with a := a }
  obtain ⟨g1, g2, g3, g4⟩ := seqFrame_ran (s := s.withCtx { s.seq.ctx with a := a }) h0.bus (decode_read hv a n)
  have hd : devAtFrame (s.withCtx { s.seq.ctx with a := a }) = devAtFrame s := rfl
  rw [hd, devFrame_accepted ⟨.inl h2, .inl h1⟩ rfl] at g2 g4
  refine ⟨BitVec.ofNat 24 ((deviceAddr s.cfg (maskAddr a) + n) % s.cfg.deviceSize), g1, g2, g3, ?_⟩
  have := h0.trans g4
  exact this

/-! ### The steps of an operation, one after another -/

/-- From a point, at `s`, the steps of an operation lead to an end, `x` and `t`: it returns, or it stands at another point. -/
structure Reaches (task : Task) (s : State) (x : Exit) (t : State) (d : Dev) (fs : List (List Byte)) : Prop where
  goes : GoesOn (resumeOp task s) (settle task.op (x, t))
  ran  : Ran s t d fs

/-- One step. -/
theorem Reaches.one {op : Op} {pt : Point} {s t : State} {x : Exit} {d : Dev} {fs : List (List Byte)}
    (h : atPoint op pt s = (x, t)) (g : Ran s t d fs) : Reaches { op := op, pt := pt } s x t d fs :=
  ⟨by unfold resumeOp; dsimp only; rw [h]; exact .here _, g⟩

/-- More steps. -/
theorem Reaches.andThen {op : Op} {pt pt' : Point} {s t u : State} {x : Exit} {d e : Dev} {fs gs : List (List Byte)}
    (h : Reaches { op := op, pt := pt } s (.goto pt') t d fs)
    (g : Reaches { op := op, pt := pt' } (t.withTask { op := op, pt := pt' }) x u e gs) :
    Reaches { op := op, pt := pt } s x u e (fs ++ gs) :=
  ⟨h.goes.trans (.of_step rfl g.goes), by
    have h1 := (h.ran.trans (Ran.withTask h.ran.bus { op := op, pt := pt' })).trans g.ran
    simpa using h1⟩

/-- Where an operation checks that the latch is clear, on a listening device whose latch is (R179). -/
theorem Reaches.cleared {op : Op} {pt : Point} {s t : State} {d : Dev} {fs : List (List Byte)}
    (h : Reaches { op := op, pt := pt } s (toCleared s.cfg op) t d fs) (hv : validParams s.cfg = true) (hl : Listening d)
    (hw : d.wel = false) (ha : d.arm = false) :
    ∃ u b, Reaches { op := op, pt := pt } s (afterCleared s.cfg op) u d (fs ++ clearedFrame s.cfg) ∧
      u.seq.ctx = { t.seq.ctx with srs := b } := by
  obtain rfl := h.ran.dev
  unfold toCleared at h
  unfold clearedFrame
  split_ifs at h ⊢ with hc
  · obtain ⟨u, b, h1, h2, h3⟩ := cleared_clear (s := t.withTask { op := op, pt := .cleared })
      (by rw [State.withTask_cfg, h.ran.cfg]; exact hv) (Ran.withTask h.ran.bus _).bus hl hw ha op
    rw [State.withTask_cfg, h.ran.cfg] at h1 h3
    exact ⟨u, b, h.andThen (.one h1 h3), h2⟩
  · exact ⟨t, t.seq.ctx.srs, by simpa using h, rfl⟩

/-- The head of an operation that consumes the latch, on a listening device: the latch is set and checked, and the command
is sent and taken to its own rule (R168, R170, R172). -/
theorem Reaches.latched {s : State} (hv : validParams s.cfg = true) (hb : BusOk s) (hl : Listening s.dev) {op : Op} {i : Instr}
    (hx : afterEnable op = .goto .latch)
    (hc : ∀ (t : State) (b : Byte), t.cfg = s.cfg → t.host = s.host → t.seq.ctx = { s.seq.ctx with srs := b } →
      latchCommand t op = latchCommand s op)
    (hi : decodeFrame s.cfg.ops ((latchCommand s op).1 ++ (latchCommand s op).2) 0 = .ok i) (hw : i.wf s.cfg = true) :
    ∃ t k b, t.seq.ctx = { s.seq.ctx with srs := b } ∧
      Reaches { op := op, pt := .enable } s (afterCommand s.cfg op) t
        (ownRule s.cfg k false i { s.dev with arm := isRsten i, wel := true }).dev
        [[s.cfg.ops.wren], [s.cfg.ops.rdsr], (latchCommand s op).1 ++ (latchCommand s op).2] := by
  obtain ⟨t1, e1, c1, g1⟩ := enable_listening hv hb hl op
  rw [hx] at e1
  have r1 := Reaches.one e1 g1
  set s1 := t1.withTask { op := op, pt := .latch } with hs1
  have d1 : s1.dev = { s.dev with arm := false, wel := true } := g1.dev
  have f1 : s1.cfg = s.cfg := g1.cfg
  have q1 : devAtFrame s1 = s1.dev := devAtFrame_of_none (by rw [d1]; exact hl.2.1)
  have b1 : BusOk s1 := g1.bus
  obtain ⟨t2, b, e2, c2, g2⟩ := latch_awake (s := s1) (by rw [f1]; exact hv) b1 (by rw [q1, d1]; exact hl.2.2) op
  rw [q1, d1, f1] at g2
  rw [q1, d1, if_pos rfl] at e2
  have r2 := r1.andThen (.one e2 g2)
  set s2 := t2.withTask { op := op, pt := .command } with hs2
  have d2 : s2.dev = { s.dev with arm := false, wel := true } := g2.dev
  have f2 : s2.cfg = s.cfg := g2.cfg.trans f1
  have x2 : s2.seq.ctx = { s.seq.ctx with srs := b } := by
    show t2.seq.ctx = _
    rw [c2]; show { t1.seq.ctx with srs := b } = _; rw [c1]
  have lc := hc s2 b f2 (g2.host.trans g1.host) x2
  obtain ⟨t3, e3, c3, g3⟩ := command_listening (s := s2) g2.bus (by rw [d2]; exact hl) op (i := i)
    (by rw [lc, f2]; exact hi) (by rw [f2]; exact hw)
  rw [lc, d2, f2] at g3
  rw [f2] at e3
  exact ⟨t3, s2.draw, b, by rw [c3, x2], r2.andThen (.one e3 g3)⟩

/-- The busy-poll of a device that is ready when the clock is sampled: one poll, and what comes after it (R174). -/
theorem Reaches.ready {t : State} (hv : validParams t.cfg = true) (hb : BusOk t) (hl : Listening (devAtFrame t)) {op : Op}
    (hp : loopHead op = .poll) :
    ∃ v b, v.seq.ctx = { t.seq.ctx with t0 := t.clock + t.slot.tick, srs := b } ∧
      Ran t v { devAtFrame t with arm := false } [[t.cfg.ops.rdsr]] ∧
      ∀ x u, whenReady op v = (x, u) → Ran v u v.dev [] →
        Reaches { op := op, pt := .sample } t x u { devAtFrame t with arm := false } [[t.cfg.ops.rdsr]] := by
  have r0 : Reaches { op := op, pt := .sample } t (.goto .poll) t.sampleT0 (devAtFrame t) [] :=
    .one (by rw [← hp]; rfl) (Ran.sampleT0 hb)
  set s1 := t.sampleT0.withTask { op := op, pt := .poll } with hs1
  have q1 : devAtFrame s1 = devAtFrame t := devAtFrame_of_none (s := s1) hl.2.1
  obtain ⟨v, b, e1, c1, g1⟩ := poll_awake (s := s1) hv r0.ran.bus (by rw [q1]; exact hl.2.2) op
  rw [q1, if_neg (by rw [hl.1]; decide)] at e1
  rw [q1] at g1
  refine ⟨v, b, c1, ?_, fun x u hx hu => ?_⟩
  · have := (r0.ran.trans (Ran.withTask r0.ran.bus { op := op, pt := .poll })).trans g1
    exact this
  · have g2 := g1.trans hu
    rw [g1.dev] at g2
    have := r0.andThen (.one (e1.trans hx) g2)
    exact this

/-- A request whose steps lead to its return, without bytes delivered to the host (R164, R306). -/
theorem requestGives_of_reaches {i : Instr} {s u : State} {op : Op} {d : Dev} {fs : List (List Byte)} {st : Status}
    (hr : Ready s) (ho : requestOp s.cfg i = some op) (ha : rightlyAligned s.cfg op = true)
    (hs : s.seq.sel = false ∨ fs ≠ [])
    (h : Reaches { op := op, pt := opening op } ((s.lend (inputBuffer i s)).begin { op := op, pt := opening op }
      (openingContext s.cfg s.seq.ctx op)) (.ret st) u d fs) :
    RequestGives i s st fs [] (codeOf op.adapter st) d := by
  have hg := h.goes
  refine ⟨_, settle op (.ret st, u), exec_of_op hr ho, ?_, ⟨rfl, rfl, h.ran.sel hs, rfl⟩, ?_, ?_, ?_, h.ran.dev, h.ran.cfg,
    h.ran.inbox, h.ran.rest, ?_, ?_⟩
  · rcases startOp_cases op (s.lend (inputBuffer i s)) with ⟨_, e⟩ | ⟨e, _⟩
    · rw [e]; exact hg
    · rw [State.lend_cfg, ha] at e; cases e
  · simpa [sentFrames, settle] using h.ran.sent
  all_goals simp [settle, State.finish, h.ran.host, codeOf]

/-- A request whose first step returns. -/
theorem requestGivesAtOnce_of_step {i : Instr} {s t : State} {op : Op} {st : Status} {d : Dev} {fs : List (List Byte)}
    {out : List Byte} (hr : Ready s) (ho : requestOp s.cfg i = some op) (ha : rightlyAligned s.cfg op = true)
    (h : atPoint op (opening op) ((s.lend (inputBuffer i s)).begin { op := op, pt := opening op }
      (openingContext s.cfg s.seq.ctx op)) = (.ret st, t))
    (hd : t.dev = d) (hf : sentFrames t = fs) (hs : t.seq.sel = false) (hc : t.cfg = s.cfg) (hi : t.inbox = s.inbox)
    (hre : t.rest = s.rest) (hg : t.host.geometry = s.host.geometry) (hin : t.host.inp = inputBuffer i s)
    (hout : t.host.out = out) : RequestGivesAtOnce i s st fs out (codeOf op.adapter st) d := by
  refine ⟨_, exec_of_op hr ho, ?_⟩
  rcases startOp_cases op (s.lend (inputBuffer i s)) with ⟨_, e⟩ | ⟨e, _⟩
  · rw [e]
    have h' : atPoint op (opening op) ((s.lend (inputBuffer i s)).begin { op := op, pt := opening op }
      (openingContext (s.lend (inputBuffer i s)).cfg (s.lend (inputBuffer i s)).seq.ctx op)) = (.ret st, t) := h
    rw [h']
    exact ⟨⟨rfl, rfl, hs, rfl⟩, hf, hout, rfl, hd, hc, hi, hre, hg, hin⟩
  · rw [State.lend_cfg, ha] at e; cases e

end Sys2Proof.Machine
end

