-- ==== Sys2Proof/Laws/Writes.lean ====
section
/-! SUPPORT. One chunk of a write (R200, R201): its bounds, the array addresses it programs, what its page-program frame
does to a listening device, and its steps when the bus does not fail. -/

namespace Sys2Proof.Machine

/-! ### Bounds -/

theorem slice_length {buf : List Byte} {off n : Nat} (h : off + n ≤ buf.length) : (slice buf off n).length = n := by
  simp [slice]; omega

/-- A chunk has a byte, is no longer than what remains, and stays in its page (R200). -/
theorem chunkLength_bounds {a rem : Word} (h : rem ≠ 0) : 1 ≤ chunkLength a rem ∧ chunkLength a rem ≤ pageSize ∧
    chunkLength a rem ≤ rem.toNat ∧ a.toNat % pageSize + chunkLength a rem ≤ pageSize := by
  have h1 : 0 < rem.toNat := by
    rcases Nat.eq_zero_or_pos rem.toNat with h0 | h0
    · exact absurd (BitVec.eq_of_toNat_eq (by simpa using h0)) h
    · exact h0
  have h2 : a.toNat % pageSize < pageSize := Nat.mod_lt _ (by decide)
  unfold chunkLength; omega

/-! ### Array addresses (R61, R97) -/

theorem deviceAddr_mask {p : Params} (a : Word) : deviceAddr p (maskAddr a) = a.toNat % 2 ^ 24 % p.deviceSize := by
  simp [deviceAddr, maskAddr]

theorem targetAddr_word (p : Params) (addr off : Word) : deviceAddr p (maskAddr (addr + off)) = targetAddr p addr off.toNat := by
  rw [deviceAddr_mask]; simp [targetAddr]

/-- The bytes of a chunk that stays in one page lie at consecutive array addresses. -/
theorem targetAddr_add {p : Params} (hF : ParamFacts p) (addr : Word) (off n j : Nat) (hj : j < n)
    (hl : ((addr.toNat + off) % 2 ^ 32) % pageSize + n ≤ pageSize) :
    targetAddr p addr (off + j) = targetAddr p addr off + j := by
  have hp : pageSize = 256 := rfl
  unfold targetAddr
  rw [hp] at hl
  have hA : (addr.toNat + (off + j)) % 2 ^ 32 = (addr.toNat + off) % 2 ^ 32 + j := by omega
  rw [hA]
  generalize (addr.toNat + off) % 2 ^ 32 = x at *
  have hB : (x + j) % 2 ^ 24 = x % 2 ^ 24 + j := by omega
  rw [hB]
  have hx : x % 2^24 % 256 = x % 256 := by omega
  generalize x % 2 ^ 24 = y at *
  have hs : p.deviceSize % 256 = 0 := hF.size_page
  have : y % p.deviceSize + n ≤ p.deviceSize := by
    refine unit_end_le (u := 256) hs (Nat.mod_lt _ hF.size_pos) ?_
    rw [Nat.mod_mod_of_dvd _ (Nat.dvd_of_mod_eq_zero hs)]; omega
  rw [Nat.add_mod, Nat.mod_eq_of_lt (a := j) (by omega), Nat.mod_eq_of_lt (by omega)]

/-! ### The page-program frame (R134, R139) -/

/-- On a device whose latch is set, a page-program that stays in one page starts, or is ignored on a protected range. -/
theorem devPp_inPage {p : Params} (hF : ParamFacts p) (k : Nat) (a : Word) (data : List Byte) (d : Dev) (hw : d.wel = true)
    (hl : a.toNat % pageSize + data.length ≤ pageSize) :
    (devPp p k (maskAddr a) data d).dev =
      if rangeProtected d.prot (deviceAddr p (maskAddr a)) (deviceAddr p (maskAddr a) + data.length) then
        { d with wel := Config.freeWel k }
      else
        { d with
          pend := .program (deviceAddr p (maskAddr a)) data, busy := true
          ac := maskAddr a + BitVec.ofNat 24 data.length } := by
  have h1 : deviceAddr p (maskAddr a) % pageSize = a.toNat % pageSize := by
    rw [deviceAddr_mask, Nat.mod_mod_of_dvd _ (Nat.dvd_of_mod_eq_zero hF.size_page), Nat.mod_mod_of_dvd _ (by decide)]
  unfold devPp answer
  dsimp only
  rw [if_pos hw, h1, if_neg (by omega)]
  split_ifs <;> rfl

/-! ### The page-program frames of a trace -/

/-- Two commands with one opcode are one command (R94). -/
theorem byte_injective {p : Params} (h : validParams p = true) {c d : Cmd} (hd : p.ops.byte c = p.ops.byte d) : c = d := by
  have a1 := Opcodes.cmdOf_byte (paramFacts h).distinct c
  rw [hd, Opcodes.cmdOf_byte (paramFacts h).distinct d] at a1
  exact (Option.some.inj a1).symm

/-- A frame whose opcode is another adds no page-program frame. -/
theorem programFrames_other {s t : State} {hdr dout : List Byte} {nin : Nat} {st : Status} {rx : List Byte} {b : Byte}
    (h : Recorded hdr dout nin s.trace t.trace st rx) (hc : t.cfg = s.cfg) (hh : hdr.head? = some b)
    (hb : b ≠ s.cfg.ops.pp) : programFrames t.cfg.ops t = programFrames s.cfg.ops s := by
  obtain ⟨x, tl, rfl⟩ : ∃ x tl, hdr = x :: tl := by
    cases hdr with
    | nil => cases hh
    | cons x tl => exact ⟨x, tl, rfl⟩
  obtain rfl : x = b := Option.some.inj hh
  unfold programFrames sentFrames
  rw [hc]
  rcases h with ⟨_, _, e⟩ | ⟨sent, _, so, _, e⟩ <;> rw [e]
  · simp [hb]
  · rcases so with rfl | rfl <;> simp [hb]

/-- A page-program frame that was sent whole is added to them. -/
theorem programFrames_program {s t : State} {a : Word} {data : List Byte} {nin : Nat} {rx : List Byte}
    (h : Recorded (s.cfg.ops.pp :: addr24 a) data nin s.trace t.trace .ok rx) (hc : t.cfg = s.cfg) :
    programFrames t.cfg.ops t = programFrames s.cfg.ops s ++ [s.cfg.ops.pp :: (addr24 a ++ data)] := by
  unfold programFrames sentFrames
  rw [hc]
  rcases h with ⟨_, _, e⟩ | ⟨_, _, _, h, _⟩
  · rw [e]; simp
  · cases h

/-! ### The steps of a chunk -/

/-- The head of a chunk on a listening device: the latch is set and checked, and the page-program is sent. -/
theorem chunkStart_listening {s : State} (hv : validParams s.cfg = true) (hb : BusOk s) (hl : Listening s.dev) (ad : Bool)
    (addr size : Word) (hr : s.seq.ctx.rem ≠ 0) (hlen : s.seq.ctx.off.toNat + s.seq.ctx.rem.toNat ≤ s.host.inp.length)
    (hn : s.seq.ctx.n.toNat = chunkLength s.seq.ctx.a s.seq.ctx.rem) :
    ∃ t b k, t.seq.ctx = { s.seq.ctx with srs := b } ∧
      Reaches { op := .write ad addr size, pt := .enable } s (.goto .sample) t
        (devPp s.cfg k (maskAddr s.seq.ctx.a) (slice s.host.inp s.seq.ctx.off.toNat s.seq.ctx.n.toNat)
          { s.dev with arm := false, wel := true }).dev
        [[s.cfg.ops.wren], [s.cfg.ops.rdsr],
          s.cfg.ops.pp :: (addr24 s.seq.ctx.a ++ slice s.host.inp s.seq.ctx.off.toNat s.seq.ctx.n.toNat)] := by
  obtain ⟨h1, h2, h3, h4⟩ := chunkLength_bounds (a := s.seq.ctx.a) hr
  rw [← hn] at h1 h2 h3 h4
  have hsl : (slice s.host.inp s.seq.ctx.off.toNat s.seq.ctx.n.toNat).length = s.seq.ctx.n.toNat := slice_length (by omega)
  obtain ⟨t, k, b, c, r⟩ := Reaches.latched (op := .write ad addr size)
    (i := .pp (maskAddr s.seq.ctx.a) (slice s.host.inp s.seq.ctx.off.toNat s.seq.ctx.n.toNat)) hv hb hl rfl
    (fun t b f i x => by simp only [latchCommand, x, f, i])
    (decode_pp hv _ (d := slice s.host.inp s.seq.ctx.off.toNat s.seq.ctx.n.toNat) (by rw [hsl]; omega) (by rw [hsl]; omega))
    (by simp only [Instr.wf, hsl, Bool.and_eq_true, decide_eq_true_eq]; omega)
  exact ⟨t, b, k, c, r⟩

/-- The wait of a chunk whose device is ready when its clock is sampled: one poll, and the cursor moves on (R174, R200). -/
theorem chunkEnd_ready {t : State} (hv : validParams t.cfg = true) (hb : BusOk t) (hl : Listening (devAtFrame t)) (ad : Bool)
    (addr size : Word) :
    ∃ u b t0, u.seq.ctx = chunkHead { t.seq.ctx with
        a := t.seq.ctx.a + BitVec.ofNat 32 t.seq.ctx.n.toNat, off := t.seq.ctx.off + BitVec.ofNat 32 t.seq.ctx.n.toNat,
        rem := t.seq.ctx.rem - BitVec.ofNat 32 t.seq.ctx.n.toNat, srs := b, t0 := t0 } ∧
      Reaches { op := .write ad addr size, pt := .sample } t
        (.goto (chunkPoint (t.seq.ctx.rem - BitVec.ofNat 32 t.seq.ctx.n.toNat))) u
        { devAtFrame t with arm := false } [[t.cfg.ops.rdsr]] := by
  obtain ⟨v, b, c, g, k⟩ := Reaches.ready (op := .write ad addr size) hv hb hl rfl
  have h0 := Ran.withCtx g.bus (advanceCursor v.seq.ctx.n.toNat v).seq.ctx
  have h1 := h0.trans (Ran.withCtx h0.bus (chunkHead (advanceCursor v.seq.ctx.n.toNat v).seq.ctx))
  refine ⟨_, b, t.clock + t.slot.tick, ?_, k _ _ ?_ h1⟩
  · show chunkHead (advanceCursor v.seq.ctx.n.toNat v).seq.ctx = _
    simp only [advanceCursor, State.withCtx_ctx, c]
  · have hx : (advanceCursor v.seq.ctx.n.toNat v).seq.ctx.rem = t.seq.ctx.rem - BitVec.ofNat 32 t.seq.ctx.n.toNat := by
      simp only [advanceCursor, State.withCtx_ctx, c]
    simp only [whenReady, hx]; rfl

end Sys2Proof.Machine
end

