-- ==== Sys2Proof/Laws/Cursor.lean ====
section
/-! SUPPORT. The points an operation can stand at, and the cursor of a write: the steps that keep them (R23, R165, R200,
R201). -/

namespace Sys2Proof.Machine

/-! ### Points -/

/-- A step that goes on leads to one of the exits of its point. -/
theorem goto_mem_exits {op : Op} {pt pt' : Point} {s : State} (h : (atPoint op pt s).1 = .goto pt') : Exit.goto pt' ∈ exits s.cfg op pt := by
  rcases atPoint_exit op pt s with g | ⟨_, e, g⟩
  · rwa [h] at g
  · rw [h] at g; cases g

/-- From a point of its own an operation goes to a point of its own (R165). -/
theorem ownPoint_next {p : Params} {op : Op} {pt pt' : Point} (h : ownPoint p op pt = true) (hx : Exit.goto pt' ∈ exits p op pt) :
    ownPoint p op pt' = true := by
  cases op <;> cases pt <;> simp only [ownPoint, decide_eq_true_eq, Bool.or_eq_true, reduceCtorEq, or_self, or_true,
      or_false] at h <;>
    simp only [exits, afterReset, afterEnable, afterCommand, afterDisable, afterCleared, toCleared, loopHead, notYet,
      List.mem_cons, List.not_mem_nil, or_false, Exit.goto.injEq, reduceCtorEq] at hx <;>
    (try split_ifs at hx) <;> simp_all [ownPoint] <;> (rcases hx with rfl | rfl | rfl | rfl <;> rfl)

/-- An operation begins at a point of its own. -/
theorem ownPoint_opening (p : Params) (op : Op) : ownPoint p op (opening op) = true := by
  cases op <;> simp only [opening, ownPoint, decide_true, Bool.true_or] 
  unfold chunkPoint; split_ifs <;> rfl

/-- A step of a write other than its poll stays in the chunk, or outside all chunks. -/
theorem inChunk_next {p : Params} {ad a n} {pt pt' : Point} (h : ownPoint p (.write ad a n) pt = true) 
    (hx : Exit.goto pt' ∈ exits p (.write ad a n) pt) (hp : pt ≠ .poll) : inChunk pt' = inChunk pt := by
  cases pt <;> simp only [ownPoint, reduceCtorEq] at h <;>
    simp only [exits, afterEnable, afterCommand, afterDisable, afterCleared, toCleared, loopHead, notYet,
      List.mem_cons, List.not_mem_nil, or_false, Exit.goto.injEq, reduceCtorEq] at hx <;>
    (try split_ifs at hx) <;> simp_all [inChunk]

/-! ### The cursor of a write -/

theorem chunkLength_le (a rem : Word) : chunkLength a rem ≤ 256 := by unfold chunkLength pageSize; omega

/-- The cursor as a write opens it (R200). -/
theorem WriteCursor.opening {s : State} {c : Context} {addr size : Word} (hb : size.toNat ≤ s.host.inp.length)
    (hc : s.seq.ctx = chunkHead { c with a := addr, off := 0, rem := size }) :
    WriteCursor s (chunkPoint size) addr size := by
  have e : s.seq.ctx.a = addr ∧ s.seq.ctx.off = 0 ∧ s.seq.ctx.rem = size := by
    rw [hc]; unfold chunkHead; split_ifs <;> exact ⟨rfl, rfl, rfl⟩
  obtain ⟨e1, e2, e3⟩ := e
  refine ⟨hb, by rw [e1, e2]; simp, by rw [e2, e3]; simp, ?_, fun _ => .inl e2, ?_⟩
  · intro h
    have hr : size ≠ 0 := by rintro rfl; simp [chunkPoint, inChunk] at h
    rw [e1, e3]
    refine ⟨?_, ?_⟩
    · rcases Nat.eq_zero_or_pos size.toNat with h0 | h0
      · exact absurd (BitVec.eq_of_toNat_eq (by simpa using h0)) hr
      · exact h0
    · rw [hc]; unfold chunkHead; rw [if_neg hr]
      have := chunkLength_le addr size
      simp; omega
  · intro h
    rw [e3]
    by_contra hr
    simp only [chunkPoint, hr, if_false, inChunk] at h
    cases h

/-- A step that moves no register of the cursor keeps it. -/
theorem WriteCursor.congr {s t : State} {pt pt' : Point} {addr size : Word} (h : WriteCursor s pt addr size) 
    (hi : t.host.inp = s.host.inp) {b : Byte} {t0 : Nat} (hc : t.seq.ctx = { s.seq.ctx with srs := b, t0 := t0 })
    (hp : inChunk pt' = inChunk pt) : WriteCursor t pt' addr size := by
  obtain ⟨h1, h2, h3, h4, h6, h5⟩ := h
  refine ⟨by rw [hi]; exact h1, ?_, ?_, ?_, ?_, ?_⟩ <;> rw [hc] <;> try assumption
  · rw [hp]; exact h4
  · rw [hp]; exact h6
  · rw [hp]; exact h5

/-- The cursor after a chunk (R23, R200, R201). -/
theorem WriteCursor.advance {s : State} {addr size : Word} {c : Context} (h : WriteCursor s .poll addr size) {b : Byte}
    (hc : c = { s.seq.ctx with srs := b }) {t : State} (hi : t.host.inp = s.host.inp)
    (ht : t.seq.ctx = chunkHead { c with
      a := c.a + BitVec.ofNat 32 c.n.toNat, off := c.off + BitVec.ofNat 32 c.n.toNat,
      rem := c.rem - BitVec.ofNat 32 c.n.toNat }) :
    WriteCursor t (chunkPoint (c.rem - BitVec.ofNat 32 c.n.toNat)) addr size := by
  obtain ⟨h1, h2, h3, h4, h6, h5⟩ := h
  obtain ⟨h4a, h4b⟩ := h4 rfl
  have hl := chunkLength_le s.seq.ctx.a s.seq.ctx.rem
  have hle : chunkLength s.seq.ctx.a s.seq.ctx.rem ≤ s.seq.ctx.rem.toNat := by unfold chunkLength; omega
  have ca : c.a = s.seq.ctx.a := by rw [hc]
  have co : c.off = s.seq.ctx.off := by rw [hc]
  have cr : c.rem = s.seq.ctx.rem := by rw [hc]
  have cn : c.n = s.seq.ctx.n := by rw [hc]
  rw [ca, co, cr, cn] at ht
  rw [cr, cn]
  have hs := size.isLt
  have hrr : (s.seq.ctx.rem - BitVec.ofNat 32 s.seq.ctx.n.toNat).toNat = s.seq.ctx.rem.toNat - s.seq.ctx.n.toNat := by
    rw [BitVec.toNat_sub_of_le]
    · simp; omega
    · rw [BitVec.le_def]; simp; omega
  have hoo : (s.seq.ctx.off + BitVec.ofNat 32 s.seq.ctx.n.toNat).toNat = s.seq.ctx.off.toNat + s.seq.ctx.n.toNat := by
    rw [BitVec.toNat_add]; simp; omega
  set r' := s.seq.ctx.rem - BitVec.ofNat 32 s.seq.ctx.n.toNat
  set a' := s.seq.ctx.a + BitVec.ofNat 32 s.seq.ctx.n.toNat
  have e : t.seq.ctx.a = a' ∧ t.seq.ctx.off = s.seq.ctx.off + BitVec.ofNat 32 s.seq.ctx.n.toNat ∧ t.seq.ctx.rem = r' := by
    rw [ht]; unfold chunkHead; split_ifs <;> exact ⟨rfl, rfl, rfl⟩
  obtain ⟨e1, e2, e3⟩ := e
  refine ⟨by rw [hi]; exact h1, ?_, ?_, ?_, ?_, ?_⟩
  · rw [e1, e2, ← BitVec.add_assoc, ← h2]
  · rw [e2, e3, hoo, hrr]; omega
  · intro h
    have hr : r' ≠ 0 := by intro hr; rw [hr] at h; simp [chunkPoint, inChunk] at h
    rw [e1, e3]
    refine ⟨?_, ?_⟩
    · rcases Nat.eq_zero_or_pos r'.toNat with h0 | h0
      · exact absurd (BitVec.eq_of_toNat_eq (by simpa using h0)) hr
      · exact h0
    · rw [ht]; unfold chunkHead; rw [if_neg hr]
      have := chunkLength_le a' r'
      show (BitVec.ofNat 9 (chunkLength a' r')).toNat = _
      rw [BitVec.toNat_ofNat]; omega
  · intro h
    right
    have hr : r' ≠ 0 := by intro hr; rw [hr] at h; simp [chunkPoint, inChunk] at h
    have hr0 : 0 < r'.toNat := by
      rcases Nat.eq_zero_or_pos r'.toNat with h0 | h0
      · exact absurd (BitVec.eq_of_toNat_eq (by simpa using h0)) hr
      · exact h0
    have hnn : s.seq.ctx.n.toNat = pageSize - s.seq.ctx.a.toNat % pageSize := by
      have : s.seq.ctx.n.toNat ≠ s.seq.ctx.rem.toNat := by omega
      rw [h4b] at this ⊢; unfold chunkLength at *; omega
    rw [e1]
    show (s.seq.ctx.a + BitVec.ofNat 32 s.seq.ctx.n.toNat).toNat % pageSize = 0
    rw [BitVec.toNat_add, BitVec.toNat_ofNat, hnn]
    have hp : pageSize = 256 := rfl
    rw [hp]; omega
  · intro h
    rw [e3]
    by_contra hr
    simp only [chunkPoint, hr, if_false, inChunk] at h
    cases h

end Sys2Proof.Machine
end

