-- ==== Sys2Proof/Laws/PerInstr.lean ====
section
/-! SUPPORT. Statements about every instruction as syntax, one lemma per constructor. The family LeadByte says that what
an instruction puts on its port opens with its own opcode, when it is a chip command (30_encoding R90, R94), or with its
own request code, when it is a request (R100). -/

namespace Sys2Proof.Laws.LeadByte

/-- The byte that selects an instruction: its opcode, a parameter, or its fixed request code. -/
def leadOf (o : Opcodes) : Instr → Byte
  | .nop => o.nop
  | .rsten => o.rsten
  | .rst => o.rst
  | .rdsr _ => o.rdsr
  | .wrsr _ _ => o.wrsr
  | .rdcr _ => o.rdcr
  | .read _ _ => o.read
  | .hsread _ _ _ => o.hsread
  | .wren => o.wren
  | .wrdi => o.wrdi
  | .se _ => o.se
  | .be _ => o.be
  | .ce => o.ce
  | .pp _ _ => o.pp
  | .rdid _ => o.rdid
  | .sfdp _ _ _ => o.sfdp
  | .rbpr _ => o.rbpr
  | .ulbpr => o.ulbpr
  | .rsid _ _ _ => o.rsid
  | .dpd => o.dpd
  | .rdpd => o.rdpd
  | .reqInitialize => 0x00
  | .reqReset => 0x01
  | .reqRead _ _ => 0x02
  | .reqWrite _ _ _ => 0x03
  | .reqEraseSector _ _ => 0x04
  | .reqVerifySectorErased _ => 0x05
  | .reqBusyPoll _ => 0x06
  | .reqCheckId => 0x07
  | .reqReadStatus => 0x08
  | .reqReadConfig => 0x09
  | .reqWriteEnable => 0x0A
  | .reqWriteDisable => 0x0B
  | .reqWriteStatus _ _ => 0x0C
  | .reqUnlockAllBlocks => 0x0D
  | .reqBlockRead _ _ => 0x10
  | .reqBlockWrite _ _ _ => 0x11
  | .reqBlockErase _ _ => 0x12
  | .reqBlockEraseVerify _ => 0x13
  | .reqSystemError _ => 0x14

/-- The first byte that stands on a port. -/
def firstByte : Wire → Option Byte
  | .frame tx _ => tx.head?
  | .request bytes => bytes.head?

/-- What the instruction puts on its port opens with the byte that selects it, whatever the parameters. -/
def Statement (i : Instr) : Prop := ∀ p : Params, firstByte (encode p i) = some (leadOf p.ops i)

theorem nop : Statement .nop := fun _ => rfl

theorem rsten : Statement .rsten := fun _ => rfl

theorem rst : Statement .rst := fun _ => rfl

theorem rdsr (n : Nat) : Statement (.rdsr n) := fun _ => rfl

theorem wrsr (a b : Byte) : Statement (.wrsr a b) := fun _ => rfl

theorem rdcr (n : Nat) : Statement (.rdcr n) := fun _ => rfl

theorem read (a : Addr24) (n : Nat) : Statement (.read a n) := fun _ => rfl

theorem hsread (a : Addr24) (x : Byte) (n : Nat) : Statement (.hsread a x n) := fun _ => rfl

theorem wren : Statement .wren := fun _ => rfl

theorem wrdi : Statement .wrdi := fun _ => rfl

theorem se (a : Addr24) : Statement (.se a) := fun _ => rfl

theorem be (a : Addr24) : Statement (.be a) := fun _ => rfl

theorem ce : Statement .ce := fun _ => rfl

theorem pp (a : Addr24) (d : List Byte) : Statement (.pp a d) := fun _ => rfl

theorem rdid (n : Nat) : Statement (.rdid n) := fun _ => rfl

theorem sfdp (a : Addr24) (x : Byte) (n : Nat) : Statement (.sfdp a x n) := fun _ => rfl

theorem rbpr (n : Nat) : Statement (.rbpr n) := fun _ => rfl

theorem ulbpr : Statement .ulbpr := fun _ => rfl

theorem rsid (a : Addr16) (x : Byte) (n : Nat) : Statement (.rsid a x n) := fun _ => rfl

theorem dpd : Statement .dpd := fun _ => rfl

theorem rdpd : Statement .rdpd := fun _ => rfl

theorem reqInitialize : Statement .reqInitialize := fun _ => rfl

theorem reqReset : Statement .reqReset := fun _ => rfl

theorem reqRead (a n : Word) : Statement (.reqRead a n) := fun _ => rfl

theorem reqWrite (a n : Word) (d : List Byte) : Statement (.reqWrite a n d) := fun _ => rfl

theorem reqEraseSector (a n : Word) : Statement (.reqEraseSector a n) := fun _ => rfl

theorem reqVerifySectorErased (a : Word) : Statement (.reqVerifySectorErased a) := fun _ => rfl

theorem reqBusyPoll (n : Word) : Statement (.reqBusyPoll n) := fun _ => rfl

theorem reqCheckId : Statement .reqCheckId := fun _ => rfl

theorem reqReadStatus : Statement .reqReadStatus := fun _ => rfl

theorem reqReadConfig : Statement .reqReadConfig := fun _ => rfl

theorem reqWriteEnable : Statement .reqWriteEnable := fun _ => rfl

theorem reqWriteDisable : Statement .reqWriteDisable := fun _ => rfl

theorem reqWriteStatus (a b : Byte) : Statement (.reqWriteStatus a b) := fun _ => rfl

theorem reqUnlockAllBlocks : Statement .reqUnlockAllBlocks := fun _ => rfl

theorem reqBlockRead (a n : Word) : Statement (.reqBlockRead a n) := fun _ => rfl

theorem reqBlockWrite (a n : Word) (d : List Byte) : Statement (.reqBlockWrite a n d) := fun _ => rfl

theorem reqBlockErase (a n : Word) : Statement (.reqBlockErase a n) := fun _ => rfl

theorem reqBlockEraseVerify (a : Word) : Statement (.reqBlockEraseVerify a) := fun _ => rfl

theorem reqSystemError (n : Word) : Statement (.reqSystemError n) := fun _ => rfl

end Sys2Proof.Laws.LeadByte
end

