-- ==== Sys2Proof/Tests/Slice0.lean ====
section
/-! SUPPORT. Tests: the well-formedness checks, one word of each instruction written out from its encoding, one step of
each chip command, of each request and of the later points of the requests, with results from the vectors of
95_test_vectors; and a witness for the hypotheses of each statement. -/

namespace Sys2Proof.Tests

open Sys2Proof Sys2Proof.Machine

/-- The parameters of the test vectors. -/
abbrev P : Params := Params.default

/-! ## Well-formedness: one ill-formed term for each check -/

theorem test_wf_pp_empty : Instr.wf P (.pp 0x000000 []) = false := by decide
theorem test_wf_pp_257 : Instr.wf P (.pp 0x000000 (List.replicate 257 0x00)) = false := by
  rw [Instr.wf, List.length_replicate]; decide
theorem test_wf_pp_256 : Instr.wf P (.pp 0x000000 (List.replicate 256 0x00)) = true := by
  rw [Instr.wf, List.length_replicate]; decide
theorem test_wf_write_short : Instr.wf P (.reqWrite 0 2 [0x11]) = false := by decide
theorem test_wf_block_write_short : Instr.wf P (.reqBlockWrite 0 1 [0x11]) = false := by decide
/-- A buffer of at least the size: the surplus stays unread (R26). -/
theorem test_wf_write_longer : Instr.wf P (.reqWrite 0 1 [0x11, 0x22]) = true := by decide
theorem test_wf_block_write : Instr.wf P (.reqBlockWrite 0 1 [0x11, 0x22, 0x33, 0x44]) = true := by decide

/-! ## One word of each instruction (R91, R94, R100) -/

/-- A frame decodes to an instruction. -/
abbrev F (tx : List Byte) (n : Nat) (i : Instr) : Prop := decode P (.frame tx n) = .ok i
/-- A request decodes to an instruction. -/
abbrev Q (bytes : List Byte) (i : Instr) : Prop := decode P (.request bytes) = .ok i

theorem test_decode_nop : F [0x00] 0 .nop := by decide
theorem test_decode_rsten : F [0x66] 0 .rsten := by decide
theorem test_decode_rst : F [0x99] 0 .rst := by decide
theorem test_decode_rdsr : F [0x05] 1 (.rdsr 1) := by decide
theorem test_decode_wrsr : F [0x01, 0x12, 0x08] 0 (.wrsr 0x12 0x08) := by decide
theorem test_decode_rdcr : F [0x35] 1 (.rdcr 1) := by decide
theorem test_decode_read : F [0x03, 0x12, 0x34, 0x56] 4 (.read 0x123456 4) := by decide
theorem test_decode_hsread : F [0x0B, 0x12, 0x34, 0x56, 0x9A] 4 (.hsread 0x123456 0x9A 4) := by decide
theorem test_decode_wren : F [0x06] 0 .wren := by decide
theorem test_decode_wrdi : F [0x04] 0 .wrdi := by decide
theorem test_decode_se : F [0x20, 0x00, 0x50, 0x00] 0 (.se 0x005000) := by decide
theorem test_decode_be : F [0xD8, 0xFF, 0x80, 0x01] 0 (.be 0xFF8001) := by decide
theorem test_decode_ce : F [0xC7] 0 .ce := by decide
theorem test_decode_pp : F [0x02, 0x00, 0x10, 0xFE, 0x11, 0x22] 0 (.pp 0x0010FE [0x11, 0x22]) := by decide
theorem test_decode_rdid : F [0x9F] 3 (.rdid 3) := by decide
theorem test_decode_sfdp : F [0x5A, 0x00, 0x01, 0x02, 0x00] 8 (.sfdp 0x000102 0x00 8) := by decide
theorem test_decode_rbpr : F [0x72] 18 (.rbpr 18) := by decide
theorem test_decode_ulbpr : F [0x98] 0 .ulbpr := by decide
theorem test_decode_rsid : F [0x88, 0x12, 0x34, 0x9A] 2 (.rsid 0x1234 0x9A 2) := by decide
theorem test_decode_dpd : F [0xB9] 0 .dpd := by decide
theorem test_decode_rdpd : F [0xAB] 0 .rdpd := by decide

theorem test_decode_req_bring_up : Q [0x00] .reqInitialize := by decide
theorem test_decode_req_reset : Q [0x01] .reqReset := by decide
theorem test_decode_req_read : Q [0x02, 0, 0, 0xAB, 0xCD, 0, 0, 0, 4] (.reqRead 0x0000ABCD 4) := by decide
theorem test_decode_req_write : Q [0x03, 0, 0, 0x30, 0, 0, 0, 0, 1, 0xAA] (.reqWrite 0x00003000 1 [0xAA]) := by decide
theorem test_decode_req_write_longer :
    Q [0x03, 0, 0, 0x30, 0, 0, 0, 0, 1, 0xAA, 0xBB] (.reqWrite 0x00003000 1 [0xAA, 0xBB]) := by decide
theorem test_decode_req_erase : Q [0x04, 0, 0, 0x50, 0, 0, 0, 0, 7] (.reqEraseSector 0x00005000 7) := by decide
theorem test_decode_req_verify : Q [0x05, 0, 0, 0x50, 0] (.reqVerifySectorErased 0x00005000) := by decide
theorem test_decode_req_busy_poll : Q [0x06, 0, 0, 0, 100] (.reqBusyPoll 100) := by decide
theorem test_decode_req_check_id : Q [0x07] .reqCheckId := by decide
theorem test_decode_req_read_status : Q [0x08] .reqReadStatus := by decide
theorem test_decode_req_read_config : Q [0x09] .reqReadConfig := by decide
theorem test_decode_req_write_enable : Q [0x0A] .reqWriteEnable := by decide
theorem test_decode_req_write_disable : Q [0x0B] .reqWriteDisable := by decide
theorem test_decode_req_write_status : Q [0x0C, 0x00, 0x08] (.reqWriteStatus 0x00 0x08) := by decide
theorem test_decode_req_unlock : Q [0x0D] .reqUnlockAllBlocks := by decide
theorem test_decode_req_block_read : Q [0x10, 0, 0, 0x50, 0, 0, 0, 0, 2] (.reqBlockRead 0x00005000 2) := by decide
theorem test_decode_req_block_write :
    Q [0x11, 0, 0, 0x20, 0, 0, 0, 0, 1, 1, 2, 3, 4] (.reqBlockWrite 0x00002000 1 [1, 2, 3, 4]) := by decide
theorem test_decode_req_block_erase : Q [0x12, 0, 0, 0, 5, 0, 0, 0, 9] (.reqBlockErase 5 9) := by decide
theorem test_decode_req_block_verify : Q [0x13, 0, 0, 0, 5] (.reqBlockEraseVerify 5) := by decide
theorem test_decode_req_system_error : Q [0x14, 0, 0, 0, 1] (.reqSystemError 1) := by decide

/-! What is no instruction is rejected by name (R98, R100). -/

theorem test_reject_opcode : decode P (.frame [0xFF] 0) = .error (.unknownOpcode 0xFF) := by decide
theorem test_reject_short_header : decode P (.frame [0x20, 0x00, 0x50] 0) = .error .shortHeader := by decide
theorem test_reject_surplus : decode P (.frame [0x06, 0x00] 0) = .error .surplusBytes := by decide
theorem test_reject_receive : decode P (.frame [0x06] 1) = .error .unexpectedReceive := by decide
theorem test_reject_pp_empty : decode P (.frame [0x02, 0, 0, 0] 0) = .error .badDataLength := by decide
theorem test_reject_request : decode P (.request [0x0E]) = .error (.unknownRequest 0x0E) := by decide
theorem test_reject_buffer :
    decode P (.request [0x03, 0, 0, 0x30, 0, 0, 0, 0, 2, 0xAA]) = .error (.bufferTooShort 0x03) := by decide
theorem test_reject_operands : decode P (.request [0x06, 0, 0]) = .error (.badOperands 0x06) := by decide

/-! Words of the opcode table, its header read as one big-endian number (R92). -/

theorem test_table_read : decodeTableWord 32 0x03ABCDEF = some (.read 0xABCDEF 0) := by decide
theorem test_table_rsid : decodeTableWord 32 0x88123456 = some (.rsid 0x1234 0x56 0) := by decide
theorem test_table_system_error : decodeTableWord 8 0x14 = some (.reqSystemError 0) := by decide

/-! ## One step of each chip command (95_test_vectors, family D) -/

/-- The device after power-on, unlocked. -/
def unlocked : Dev := { Dev.atPowerOn with prot := [] }
/-- The same with the latch set. -/
def latched : Dev := { unlocked with wel := true }
/-- A program in flight. -/
def programming : Dev := { latched with busy := true, pend := .program 0x006000 [0x3C] }
/-- An erase in flight. -/
def erasing : Dev := { latched with busy := true, pend := .erase 0x005000 0x006000 }

/-- The state after reset with another device. -/
def at_ (d : Dev) : State := { State.reset with dev := d }

/-- The device after an instruction. -/
def devAfter (i : Instr) (d : Dev) : Option Dev :=
  match exec i (at_ d) with
  | .next t => some t.dev
  | .fault _ | .refused _ => none

/-- The bytes received in the frame of an instruction. -/
def rxAfter (i : Instr) (d : Dev) : Option (List (List Byte)) :=
  match exec i (at_ d) with
  | .next t => some (t.trace.map (fun r => r.rx))
  | .fault _ | .refused _ => none

/-- D7: NOP disarms the reset. -/
theorem test_nop : devAfter .nop { unlocked with arm := true } = some unlocked := by decide
theorem test_rsten : devAfter .rsten unlocked = some { unlocked with arm := true } := by decide
/-- D6: not armed. -/
theorem test_rst_unarmed : devAfter .rst unlocked = some unlocked := by decide
/-- D23: an armed reset aborts an erase and protects every address again. -/
theorem test_rst_armed :
    ((devAfter .rst { erasing with arm := true }).map fun d => (d.busy, d.wel, d.pend, d.prot))
      = some (false, false, .none, [(0, 2 ^ 24)]) := by decide
/-- D5, the status byte `03` of a busy device. -/
theorem test_rdsr : byteBusy (statusByte 0 programming) = true ∧ byteWel (statusByte 0 programming) = true := by
  simp [programming, latched]
/-- D18: without the latch WRSR is ignored. -/
theorem test_wrsr_unlatched : devAfter (.wrsr 0x00 0x08) unlocked = some unlocked := by decide
/-- I12: with it the second byte goes to the configuration register. -/
theorem test_wrsr_latched : devAfter (.wrsr 0x00 0x08) latched = some { unlocked with cr := 0x08 } := by decide
/-- D5: a busy device answers RDCR. -/
theorem test_rdcr_busy : rxAfter (.rdcr 1) { programming with cr := 0x08 } = some [[0x08]] := by decide
/-- R3: the address counter wraps at the end of the device. -/
theorem test_read_wraps :
    rxAfter (.read 0xFFFFFE 4) { unlocked with mem := [(0, 0xB1), (1, 0xB2), (0xFFFFFE, 0xA1), (0xFFFFFF, 0xA2)] }
      = some [[0xA1, 0xA2, 0xB1, 0xB2]] := by decide
/-- D20: the dummy byte is free. -/
theorem test_hsread :
    rxAfter (.hsread 0x00ABCD 0x77 2) { unlocked with mem := [(0xABCD, 0x11), (0xABCE, 0x22)] } = some [[0x11, 0x22]] := by
  decide
/-- D12, D13. -/
theorem test_wren : devAfter .wren unlocked = some latched := by decide
theorem test_wrdi : devAfter .wrdi latched = some unlocked := by decide
/-- L7: a busy device ignores WRDI. -/
theorem test_wrdi_busy : devAfter .wrdi programming = some programming := by decide
/-- D22. -/
theorem test_se : devAfter (.se 0x005000) latched = some erasing := by decide
/-- E7: on a protected sector nothing starts. -/
theorem test_se_protected :
    ((devAfter (.se 0x005000) { latched with prot := [(0x005FFF, 0x006000)] }).map fun d => (d.busy, d.pend))
      = some (false, .none) := by decide
theorem test_be_unlatched : devAfter (.be 0x005000) unlocked = some unlocked := by decide
/-- D14. -/
theorem test_ce : devAfter .ce latched = some { latched with busy := true, pend := .erase 0 (2 ^ 24) } := by decide
/-- L11. -/
theorem test_pp :
    ((devAfter (.pp 0x0010FE [0x11, 0x22]) latched).map fun d => (d.busy, d.wel, d.pend))
      = some (true, true, .program 0x0010FE [0x11, 0x22]) := by decide
/-- D3. -/
theorem test_pp_unlatched : devAfter (.pp 0x006000 [0x00]) unlocked = some unlocked := by decide
/-- D19. -/
theorem test_rdid : rxAfter (.rdid 3) unlocked = some [[0xBF, 0x26, 0x43]] := by decide
theorem test_sfdp : rxAfter (.sfdp 0x000001 0x00 2) { unlocked with sfdp := [0x53, 0x46, 0x44] } = some [[0x46, 0x44]] := by
  decide
/-- R140: zero when nothing is protected. -/
theorem test_rbpr : rxAfter (.rbpr 2) unlocked = some [[0x00, 0x00]] := by decide
/-- D10, D11. -/
theorem test_ulbpr_unlatched : devAfter .ulbpr Dev.atPowerOn = some Dev.atPowerOn := by decide
theorem test_ulbpr : devAfter .ulbpr { Dev.atPowerOn with wel := true } = some unlocked := by decide
theorem test_rsid : rxAfter (.rsid 0x0001 0x00 1) { unlocked with sid := [0x10, 0x20] } = some [[0x20]] := by decide
/-- D16: in deep power-down WREN is ignored, and RDPD leaves it. -/
theorem test_dpd : devAfter .dpd unlocked = some { unlocked with dpd := true } := by decide
theorem test_dpd_wren : devAfter .wren { unlocked with dpd := true } = some { unlocked with dpd := true } := by decide
theorem test_rdpd : devAfter .rdpd { unlocked with dpd := true } = some unlocked := by decide
/-- D1: F0 & 3C = 30. -/
theorem test_engine_program : memRead (engineComplete { programming with mem := [(0x006000, 0xF0)] }).mem 0x006000 = 0x30 := by
  decide
/-- D2: programming FF changes nothing, and the array stays canonical. -/
theorem test_engine_program_ff : memProgram [] 0x006000 [0xFF] = [] := by decide
/-- E1: the sector is erased, its neighbours are not. -/
theorem test_engine_erase :
    (engineComplete { erasing with mem := [(0x004FFF, 1), (0x005000, 0), (0x005FFF, 0), (0x006000, 2)] }).mem
      = [(0x004FFF, 1), (0x006000, 2)] := by decide

/-! ## One step of the requests (95_test_vectors, families A, W, L, R, V, I, T, X)

A request takes its first step when it is accepted, and one frame, one clock sample or one wait at each later step. -/

/-- A request that returns in its first step: the status, the frames sent, the output buffer and the engine code. -/
def answerTo (i : Instr) (s : State) : Option (Status × List (List Byte) × List Byte × Option EngineCode) :=
  match exec i s with
  | .next t => if t.seq.op = none then some (t.seq.st, sentFrames t, t.host.out, t.host.engine) else none
  | .fault _ | .refused _ => none

/-- A request that goes on: what it has done and what comes next. -/
def begins (i : Instr) (s : State) : Option (Task × List (List Byte)) :=
  match exec i s with
  | .next t => t.seq.op.map fun task => (task, sentFrames t)
  | .fault _ | .refused _ => none

/-- An operation in progress at a point. -/
def standing (op : Op) (pt : Point) (c : Context) (s : State) : State :=
  { s with seq := { Seq.atReset with op := some { op := op, pt := pt }, ctx := c } }

/-- One step of it: the point it goes on to, the frames, and what is in flight then. -/
def moves (s : State) : Option (Option Point × List (List Byte) × Pend) :=
  match step s with
  | .next t => some (t.seq.op.map (fun task => task.pt), sentFrames t, t.dev.pend)
  | .fault _ | .refused _ => none

/-- The bus fails in the header call of every frame. -/
def deadBus : State := { State.reset with rest := { Slot.calm with hdrErr := some 7 } }

/-- A1 to A7: address assembly. -/
theorem test_addr24 :
    addr24 0x00ABCDEF = [0xAB, 0xCD, 0xEF] ∧ addr24 0x01234567 = [0x23, 0x45, 0x67] ∧
    addr24 0x01000000 = [0, 0, 0] ∧ addr24 0x000010FE = [0x00, 0x10, 0xFE] := by decide
/-- W2, W4, W5: the first chunk of each. -/
theorem test_chunk_length :
    chunkLength 0x000000F0 32 = 16 ∧ chunkLength 0x000000FF 258 = 1 ∧ chunkLength 0x00123456 1000 = 170 ∧
    chunkLength 0x00000100 257 = 256 := by decide
/-- L4, L5, L13, L14, B8: which bits are tested. -/
theorem test_status_bits :
    byteWel 0x02 = true ∧ byteWel 0x00 = false ∧ byteWel 0xC2 = true ∧ byteWel 0xFD = false ∧
    byteBusy 0x83 = true ∧ byteBusy 0x80 = false := by decide

/-- I5: the first frame of the bring-up. -/
theorem test_req_bring_up : begins .reqInitialize State.reset = some (⟨.bringUp false, .rst⟩, [[0x66]]) := by decide
/-- I1, in its two frames. -/
theorem test_req_reset : begins .reqReset State.reset = some (⟨.reset, .rst⟩, [[0x66]]) := by decide
theorem test_req_reset_second :
    (match step (standing .reset .rst Context.zero (at_ { erasing with arm := true })) with
      | .next t => some (t.seq.op, t.seq.st, sentFrames t, t.dev.pend)
      | .fault _ | .refused _ => none) = some (none, .ok, [[0x99]], .none) := by decide
/-- I8: an identifier that does not match is followed by the timeout test. -/
theorem test_bring_up_mismatch :
    moves (standing (.bringUp false) .identify Context.zero (at_ { unlocked with id := { vendor := 0xFF, device := 0xFF, capacity := 0xFF } }))
      = some (some .test, [[0x9F]], .none) := by decide
/-- I7: a device still resetting takes no frame, so that the bytes are unspecified. -/
theorem test_absent_device :
    (seqFrame [0x9F] [] 3 { State.reset with rest := { Slot.calm with absent := true } }).s.dev = Dev.atPowerOn := by decide
/-- R4. -/
theorem test_req_read :
    answerTo (.reqRead 0x01000010 1) (at_ { unlocked with mem := [(0x10, 0x5A)] })
      = some (.ok, [[0x03, 0x00, 0x00, 0x10]], [0x5A], none) := by decide
/-- W13. -/
theorem test_req_write_nothing : answerTo (.reqWrite 0x00001000 0 []) State.reset = some (.ok, [[0x04]], [], none) := by decide
/-- W6: one byte at the end of a page, the first of two; the buffer is longer than the write. -/
def chunkAtPageEnd : State :=
  { standing (.write false 0x0000FF 2) .command { Context.zero with a := 0x0000FF, rem := 2, n := 1 } (at_ latched) with
    host := { State.reset.host with inp := [0x11, 0x22, 0x33] } }
/-- Between two frames of a write the device is busy, and that is a state of the run (R6). -/
theorem test_write_command :
    (match step chunkAtPageEnd with
      | .next t => some (t.seq.op.map (fun task => task.pt), sentFrames t, t.dev.pend, t.dev.busy, t.dev.wel)
      | .fault _ | .refused _ => none)
        = some (some .sample, [[0x02, 0x00, 0x00, 0xFF, 0x11]], .program 0x0000FF [0x11], true, true) := by decide
/-- E3. -/
theorem test_req_erase_misaligned :
    answerTo (.reqEraseSector 0x00005001 0) State.reset = some (.alignmentError, [], [], none) := by decide
/-- E1, its third frame. -/
theorem test_erase_command :
    moves (standing (.eraseSector false 0x005000) .command { Context.zero with a := 0x005000 } (at_ latched))
      = some (some .sample, [[0x20, 0x00, 0x50, 0x00]], .erase 0x005000 0x006000) := by decide
/-- V4 on a sector of 256 bytes read in slices of 8: an erased slice is followed by the next, and slice 3 holds the byte that
is not erased, and is the last read. -/
def slice (a n : Word) : State :=
  { standing (.verifySectorErased false 0x005000) .slice { Context.zero with a := a, rem := n }
      (at_ { unlocked with mem := [(0x00501D, 0x7F)] }) with
    cfg := { P with sectorSize := 256, verifySlice := 8 } }
theorem test_verify_slice : moves (slice 0x005010 240) = some (some .slice, [[0x03, 0x00, 0x50, 0x10]], .none) := by decide
theorem test_verify_last_slice :
    (match step (slice 0x005018 232) with
      | .next t => some (t.seq.op, t.seq.st)
      | .fault _ | .refused _ => none) = some (none, .verificationFailure) := by decide
/-- B1: the clock is sampled first, without a frame. -/
theorem test_req_busy_poll : begins (.reqBusyPoll 100) State.reset = some (⟨.busyPoll 100, .poll⟩, []) := by decide
theorem test_busy_poll_fails :
    (match step (standing (.busyPoll 100) .poll Context.zero deadBus) with
      | .next t => some (t.seq.op, t.seq.st, sentFrames t)
      | .fault _ | .refused _ => none) = some (none, .transportError 7, [[0x05]]) := by decide
/-- I3, I4. -/
theorem test_req_check_id : answerTo .reqCheckId State.reset = some (.ok, [[0x9F]], [], none) := by decide
theorem test_req_check_id_fails :
    answerTo .reqCheckId (at_ { unlocked with id := { vendor := 0xBF, device := 0x26, capacity := 0x42 } })
      = some (.verificationFailure, [[0x9F]], [], none) := by decide
/-- L6 by bits. -/
theorem test_req_read_status :
    (match exec .reqReadStatus { at_ programming with rest := { Slot.calm with complete := false } } with
      | .next t => some (t.host.out.map byteWel)
      | .fault _ | .refused _ => none) = some [true] := by
  show some [byteWel (statusByte 0 programming)] = _
  simp [programming, latched]
/-- I12, second half. -/
theorem test_req_read_config :
    answerTo .reqReadConfig (at_ { unlocked with cr := 0x08 }) = some (.ok, [[0x35]], [0x08], none) := by decide
/-- L1, L2. -/
theorem test_req_write_enable : answerTo .reqWriteEnable State.reset = some (.ok, [[0x06]], [], none) := by decide
theorem test_req_write_disable : devAfter .reqWriteDisable latched = some unlocked := by decide
/-- I12, its first and its third frame. -/
theorem test_req_write_status :
    begins (.reqWriteStatus 0x00 0x08) State.reset = some (⟨.writeStatus 0x00 0x08, .latch⟩, [[0x06]]) := by decide
theorem test_write_status_command :
    (match step (standing (.writeStatus 0x00 0x08) .command Context.zero (at_ latched)) with
      | .next t => some (t.seq.op, t.seq.st, sentFrames t, t.dev.cr, t.dev.wel)
      | .fault _ | .refused _ => none) = some (none, .ok, [[0x01, 0x00, 0x08]], 0x08, false) := by decide
/-- I9, its first and its third frame. -/
theorem test_req_unlock : begins .reqUnlockAllBlocks State.reset = some (⟨.unlockAllBlocks, .latch⟩, [[0x06]]) := by decide
theorem test_unlock_command :
    (match step (standing .unlockAllBlocks .command Context.zero (at_ { latched with prot := [(0, 2 ^ 24)] })) with
      | .next t => some (t.seq.op, t.seq.st, sentFrames t, protAt t.dev.prot 0)
      | .fault _ | .refused _ => none) = some (none, .ok, [[0x98]], false) := by decide
/-- X1, X8. -/
theorem test_req_block_read :
    answerTo (.reqBlockRead 0x00005000 1) (at_ { unlocked with mem := [(0x5000, 1), (0x5001, 2), (0x5002, 3), (0x5003, 4)] })
      = some (.ok, [[0x03, 0x00, 0x50, 0x00]], [1, 2, 3, 4], some .success) := by decide
theorem test_req_block_write :
    begins (.reqBlockWrite 0x00002000 1 [1, 2, 3, 4]) State.reset = some (⟨.write true 0x00002000 4, .latch⟩, [[0x06]]) := by
  decide
theorem test_req_block_write_fails :
    answerTo (.reqBlockWrite 0x00002000 1 [1, 2, 3, 4]) deadBus = some (.transportError 7, [[0x06]], [], some .error) := by
  decide
/-- X3: block 5 is the sector at 5 * 1024 * 4. -/
theorem test_req_block_erase :
    begins (.reqBlockErase 5 0) State.reset = some (⟨.eraseSector true 0x005000, .latch⟩, [[0x06]]) := by decide
/-- X9: a block that is not a sector. -/
theorem test_req_block_erase_misaligned :
    answerTo (.reqBlockErase 1 0) { State.reset with cfg := { P with wordsPerBlock := 1000 } }
      = some (.alignmentError, [], [], some .error) := by decide
/-- V2, X4: the first byte of the block at 5 * 1024 * 4 = 0x5000. -/
theorem test_req_block_verify :
    answerTo (.reqBlockEraseVerify 5) (at_ { unlocked with mem := [(0x005000, 0xFE)] })
      = some (.verificationFailure, [[0x03, 0x00, 0x50, 0x00]], [], some .error) := by decide
theorem test_req_system_error : begins (.reqSystemError 1) State.reset = some (⟨.bringUp true, .rst⟩, [[0x66]]) := by decide
theorem test_req_system_error_fails :
    answerTo (.reqSystemError 1) deadBus = some (.transportError 7, [[0x66]], [], some .error) := by decide
/-- B3: with a bound of 3 the test fails to hold at +3 and holds at +4. -/
theorem test_overdue :
    State.overdue 3 { State.reset with clock := 3 } = false ∧ State.overdue 3 { State.reset with clock := 4 } = true := by
  decide
/-- A word of the table is what the next step runs. -/
theorem test_with_fetch_word :
    (match step (State.reset.withFetchWord 8 0x06) with
      | .next t => some t.dev.wel
      | .fault _ | .refused _ => none) = some true := by decide

/-! ## Witnesses: the hypotheses of each statement are met -/

theorem ready_reset : Ready State.reset := ⟨rfl, rfl, by decide⟩
theorem ready_at (d : Dev) : Ready (at_ d) := ⟨rfl, rfl, show validParams P = true by decide⟩
theorem busOk_at (d : Dev) : BusOk (at_ d) := ⟨nofun, rfl, rfl, rfl⟩
theorem eager_at (d : Dev) : Eager (at_ d) := ⟨nofun, rfl⟩
theorem slot_at (d : Dev) : (at_ d).slot.noError := ⟨rfl, rfl, rfl⟩
theorem listening_unlocked : Listening unlocked := ⟨rfl, rfl, rfl⟩

/-- The state after reset with an item presented. -/
def presenting (x : Item) : State := { State.reset with inbox := [x] }

/-- A device that never completes what is in flight, and an operation at a point. -/
def waiting (op : Op) (pt : Point) (d : Dev) : State :=
  { standing op pt Context.zero (at_ d) with rest := { Slot.calm with complete := false } }

/-- A write of one byte whose page-program has been sent, at its poll. -/
def polling : State :=
  { waiting (.write false 0x006000 1) .poll programming with
    seq := { (waiting (.write false 0x006000 1) .poll programming).seq with
      ctx := { Context.zero with a := 0x006000, rem := 1, n := 1 } },
    host := { State.reset.host with inp := [0x3C] },
    trace := [{ tx := [0x02, 0x00, 0x60, 0x00, 0x3C], rx := [], err := none }] }

/-! Encodings and steps. -/

theorem witness_DecodeOfEncodeIsIdentity :
    P.ops.distinct = true ∧ Instr.wf P (.pp 0x0010FE [0x11]) = true ∧ Instr.wf P (.reqWrite 0 0 []) = true := by decide
theorem witness_EncodeOfDecodeIsIdentity : decode P (.frame [0x06] 0) = .ok .wren := by decide
/-- A malformed frame that opens with reset-enable, an unknown opcode, and a surplus byte. -/
theorem witness_MalformedFrameIsIgnored :
    ((presenting (.wire (.frame [0x66, 0x00] 0))).seq.op = none ∧
      ∀ i : Instr, i.wf P = true → encode P i ≠ .frame [0x66, 0x00] 0) ∧
    (∀ i : Instr, i.wf P = true → encode P i ≠ .frame [0xFF] 2) ∧
    ∀ i : Instr, i.wf P = true → encode P i ≠ .frame [0x06, 0x00] 0 := by
  refine ⟨⟨rfl, fun i _ h => ?_⟩, fun i _ h => ?_, fun i _ h => ?_⟩ <;>
    cases i <;> simp [encode, bytes24, bytes16, Opcodes.default, Params.default] at h
/-- It clears `DEV.ARM` whichever byte it opens with. -/
theorem witness_MalformedFrameIsIgnored_armed :
    (match step { presenting (.wire (.frame [0x66, 0x00] 0)) with dev := { unlocked with arm := true } } with
      | .next t => some t.dev
      | .fault _ | .refused _ => none) = some unlocked := by decide
theorem witness_StepRunsDecodedInstruction :
    (presenting (.wire (.request [0x07]))).inbox = .wire (.request [0x07]) :: [] ∧
    decode P (.request [0x07]) = .ok .reqCheckId ∧
    (waiting (.busyPoll 3) .poll programming).seq.op = some ⟨.busyPoll 3, .poll⟩ := by decide
theorem witness_IdleMachineDoesNothing : State.reset.seq.op = none ∧ State.reset.inbox = [] := by decide
theorem witness_StepKeepsInvariant : Inv State.reset ∧ ∃ t, step State.reset = .next t :=
  ⟨⟨by decide, rfl, rfl, ⟨by decide, trivial, rfl, rfl⟩, nofun⟩, _, rfl⟩
theorem witness_StepKeepsInvariant_polling : Inv polling ∧ ∃ t, step polling = .next t := by
  refine ⟨⟨by decide, rfl, rfl, ⟨by decide, ?_, rfl, rfl⟩, fun t h => ?_⟩, _, rfl⟩
  · show 1 ≤ 1 ∧ _ ∧ _
    decide
  · obtain rfl : (⟨.write false 0x006000 1, .poll⟩ : Task) = t := Option.some.inj h
    exact ⟨rfl, ⟨by decide, rfl, rfl, fun _ => by decide, fun _ => .inl rfl, nofun⟩⟩
theorem witness_ParametersStayAndClockRises :
    (∃ t, step (presenting (.wire (.request [0x01]))) = .next t) ∧ ∃ t, step polling = .next t := ⟨⟨_, rfl⟩, _, rfl⟩
/-- A frame, the two clock samples and the wait; and a request. -/
theorem witness_StepIsOneFrameSampleOrWait :
    (sendsNothing .poll = false ∧ ∃ t, step (waiting (.busyPoll 3) .poll programming) = .next t) ∧
    (∃ t, step (waiting (.busyPoll 3) .sample programming) = .next t) ∧
    (∃ t, step (waiting (.busyPoll 3) .test programming) = .next t) ∧
    (sendsNothing .wait = true ∧ ∃ t, step (waiting (.busyPoll 3) .wait programming) = .next t) ∧
    isFrame .reqReset = false ∧ ∃ t, exec .reqReset State.reset = .next t :=
  ⟨⟨rfl, _, rfl⟩, ⟨_, rfl⟩, ⟨_, rfl⟩, ⟨rfl, _, rfl⟩, rfl, _, rfl⟩
theorem witness_BusyDeviceHoldsLatch :
    BusOk (at_ programming) ∧ (programming.busy = true ∧ programming.wel = true) ∧ ∃ t, step (at_ programming) = .next t :=
  ⟨busOk_at _, by decide, _, rfl⟩
theorem witness_HostEventsActAsStated :
    ((presenting .powerOn).inbox = .powerOn :: [] ∧ (presenting .powerOn).dev.pend = .none) ∧
    (presenting .seqReset).inbox = .seqReset :: [] ∧ (presenting .geometry).inbox = .geometry :: [] := by decide

/-! Chip commands. -/

theorem witness_ResetFrameResetsWhenArmed :
    Memory.wf erasing.mem = true ∧ (erasing.dpd = false ∧ { erasing with arm := true }.arm = true) ∧
    unlocked.arm = false ∧ { unlocked with dpd := true }.dpd = true := by decide
theorem witness_ReadStatusFrameReturnsStatus : unlocked.dpd = false ∧ { unlocked with dpd := true }.dpd = true := by decide
theorem witness_ReadConfigFrameReturnsRegister : unlocked.dpd = false ∧ { unlocked with dpd := true }.dpd = true := by
  decide
theorem witness_WriteStatusFrameWritesConfig :
    (latched.busy = false ∧ latched.dpd = false ∧ latched.wel = true) ∧ programming.busy = true ∧ unlocked.wel = false := by
  decide
theorem witness_LatchFramesWriteLatch : (unlocked.busy = false ∧ unlocked.dpd = false) ∧ programming.busy = true := by
  decide
theorem witness_ReadFramesReturnArray :
    (Instr.read 0xFFFFFE 4 = .read 0xFFFFFE 4 ∨ Instr.read 0xFFFFFE 4 = .hsread 0xFFFFFE 0 4) ∧
    (unlocked.busy = false ∧ unlocked.dpd = false) ∧ programming.busy = true ∧ 3 < 4 := by decide
theorem witness_ReadIdFrameReturnsIdentifier :
    (unlocked.busy = false ∧ unlocked.dpd = false) ∧ programming.busy = true ∧ 0 < 1 ∧ 1 < 2 ∧ 2 < 3 := by decide
theorem witness_ReadOnlySpacesReturnTheirBytes : unlocked.busy = false ∧ unlocked.dpd = false := by decide
theorem witness_ReadProtectionIsZeroIffUnprotected : 1 ≤ 1 ∧ unlocked.busy = false ∧ unlocked.dpd = false := by decide

theorem accepts_latched (i : Instr) : Accepts latched i := ⟨.inl rfl, .inl rfl⟩
theorem accepts_unlocked (i : Instr) : Accepts unlocked i := ⟨.inl rfl, .inl rfl⟩
theorem unprotected_latched (lo hi : Nat) : Unprotected latched lo hi := fun _ _ _ => rfl
/-- The latch is set and every address is protected. -/
def locked : Dev := { latched with prot := [(0, 2 ^ 24)] }
theorem protected_locked {lo hi : Nat} (h : lo < hi) (hm : lo < 2 ^ 24) : ¬ Unprotected locked lo hi := fun hu => by
  have := hu lo (Nat.le_refl _) h
  simp [locked, protAt] at this
  omega

/-- A page-program of one byte at the last byte of a page, of a whole page at its first byte, and each case of what it
then does. -/
theorem witness_PageProgramFrameStartsProgram :
    (1 ≤ [(0x11 : Byte)].length ∧ (0x0000FF % 2 ^ 24) % 256 + [(0x11 : Byte)].length ≤ 256) ∧
    ((0x000100 % 2 ^ 24) % 256 + (List.replicate 256 (0x11 : Byte)).length ≤ 256) ∧
    (Accepts latched (.pp 0x0000FF [0x11]) ∧ latched.wel = true ∧ Unprotected latched 0xFF 0x100) ∧
    ¬ Unprotected locked 0xFF 0x100 ∧ unlocked.wel = false ∧ ¬ Accepts programming (.pp 0x0000FF [0x11]) := by
  refine ⟨by decide, by rw [List.length_replicate]; decide, ⟨accepts_latched _, rfl, unprotected_latched _ _⟩,
    protected_locked (by decide) (by decide), rfl, ?_⟩
  rintro ⟨_, h | h⟩ <;> cases h
theorem witness_SectorEraseFrameStartsErase :
    (0xFFF000 % 2 ^ 24) % P.sectorSize = 0 ∧
    (Accepts latched (.se 0xFFF000) ∧ latched.wel = true ∧ Unprotected latched 0xFFF000 (2 ^ 24)) ∧
    ¬ Unprotected locked 0xFFF000 (2 ^ 24) ∧ unlocked.wel = false ∧ ¬ Accepts programming (.se 0xFFF000) := by
  refine ⟨by decide, ⟨accepts_latched _, rfl, unprotected_latched _ _⟩, protected_locked (by decide) (by decide), rfl, ?_⟩
  rintro ⟨_, h | h⟩ <;> cases h
theorem witness_BlockAndChipEraseFramesStartErase :
    (Accepts latched .ce ∧ latched.wel = true ∧ Unprotected latched 0 (2 ^ 24)) ∧ ¬ Unprotected locked 0 (2 ^ 24) ∧
    unlocked.wel = false ∧ ¬ Accepts programming .ce ∧ ¬ Accepts programming (.be 0) := by
  refine ⟨⟨accepts_latched _, rfl, unprotected_latched _ _⟩, protected_locked (by decide) (by decide), rfl, ?_, ?_⟩ <;>
    (rintro ⟨_, h | h⟩ <;> cases h)
theorem witness_CrossingAndMisalignedFramesAreRefused :
    (latched.busy = false ∧ latched.dpd = false ∧ latched.wel = true) ∧
    (1 ≤ [(0x11 : Byte), 0x22].length ∧ [(0x11 : Byte), 0x22].length ≤ 256 ∧
      256 < (0x0000FF % 2 ^ 24) % 256 + [(0x11 : Byte), 0x22].length) ∧ (0x000001 % 2 ^ 24) % P.sectorSize ≠ 0 ∧
    programming.busy = true ∧ { unlocked with dpd := true }.dpd = true ∧ unlocked.wel = false := by decide
theorem witness_UnlockFrameUnprotectsEverything :
    (locked.busy = false ∧ locked.dpd = false ∧ locked.wel = true) ∧ programming.busy = true ∧
    Dev.atPowerOn.wel = false := by decide
theorem witness_DeepPowerDownFramesToggle :
    unlocked.busy = false ∧ programming.busy = true ∧
    { unlocked with dpd := true }.dpd = true ∧ isFrame .wren = true ∧ Instr.wren ≠ .rdpd := by decide
theorem witness_BusyDeviceIgnoresOtherFrames :
    programming.busy = true ∧ isFrame (.read 0 1) = true ∧ (∀ n, Instr.read 0 1 ≠ .rdsr n) ∧
    (∀ n, Instr.read 0 1 ≠ .rdcr n) ∧ Instr.read 0 1 ≠ .rsten ∧ Instr.read 0 1 ≠ .rst :=
  ⟨rfl, rfl, nofun, nofun, nofun, nofun⟩
theorem witness_EngineCompletesInFlight :
    ((at_ programming).seq.op = none ∧ (at_ programming).inbox = [] ∧ Memory.wf programming.mem = true) ∧
    ((at_ programming).slot.complete = true ∧ programming.pend = .program 0x006000 [0x3C] ∧ [(0x3C : Byte)][0]? = some 0x3C) ∧
    (erasing.pend = .erase 0x005000 0x006000 ∧ 0x005000 ≤ 0x005FFF ∧ 0x005FFF < 0x006000) ∧ unlocked.pend = .none := by
  decide
theorem witness_FramesNeverWriteArray :
    isFrame (.pp 0 [0]) = true ∧ (∃ t, exec (.pp 0 [0]) (at_ latched) = .next t) ∧
    isFrame .rst = true ∧ { unlocked with arm := true }.pend = .none := ⟨rfl, ⟨_, rfl⟩, rfl, rfl⟩
theorem witness_ReadCommandsHaveNoSideEffect :
    isReadCommand (.rbpr 1) = true ∧ isReadCommand (.rdsr 1) = true ∧
    ((∀ n, Instr.rdid 3 = .rdid n → n ≤ 3) ∧ Accepts unlocked (.rdid 3) ∧
      ∃ t u, exec (.rdid 3) (at_ unlocked) = .next t ∧ exec (.rdid 3) t = .next u) ∧
    (∀ n, Instr.rbpr 2 ≠ .rdsr n) ∧ Accepts locked (.rbpr 2) ∧
      ∃ t u, exec (.rbpr 2) (at_ locked) = .next t ∧ exec (.rbpr 2) t = .next u :=
  ⟨rfl, rfl, ⟨fun n h => by cases h; decide, accepts_unlocked _, _, _, rfl, rfl⟩, nofun, accepts_latched _, _, _, rfl, rfl⟩

/-! Requests. -/

theorem witness_LatchRequestsSendOneFrame : Ready (at_ unlocked) ∧ (at_ unlocked).slot.noError := ⟨ready_at _, slot_at _⟩
theorem witness_RegisterReadsDeliverOneByte :
    Ready (at_ programming) ∧ (at_ programming).slot.noError ∧ (devAtFrame (at_ programming)).dpd = false :=
  ⟨ready_at _, slot_at _, rfl⟩
/-- The three clauses: a device that answers, one in deep power-down, one that is absent. -/
theorem witness_CheckIdComparesThreeBytes :
    (Ready (at_ unlocked) ∧ (at_ unlocked).slot.hdrErr = none ∧ (at_ unlocked).slot.dataErr = none ∧
      (at_ unlocked).slot.absent = false ∧ (devAtFrame (at_ unlocked)).busy = false ∧ (devAtFrame (at_ unlocked)).dpd = false) ∧
    (devAtFrame (at_ { unlocked with dpd := true })).dpd = true ∧
    Ready { State.reset with rest := { Slot.calm with absent := true } } ∧
    State.slot { State.reset with rest := { Slot.calm with absent := true } } = { Slot.calm with absent := true } :=
  ⟨⟨ready_at _, rfl, rfl, rfl, rfl, rfl⟩, rfl, ready_reset, rfl⟩
theorem witness_ResetRequestResetsDevice :
    Ready (at_ erasing) ∧ BusOk (at_ erasing) ∧ erasing.dpd = false ∧ Memory.wf erasing.mem = true :=
  ⟨ready_at _, busOk_at _, rfl, rfl⟩
theorem witness_ReadRequestsDeliverArray :
    readOperands P (.reqRead 0xFFFFFFFE 4) = some (false, 0xFFFFFFFE, 4) ∧
    readOperands P (.reqBlockRead 0x005000 2) = some (true, 0x005000, 8) ∧ Ready (at_ unlocked) ∧
    (at_ unlocked).slot.noError ∧ (devAtFrame (at_ unlocked)).busy = false ∧ (devAtFrame (at_ unlocked)).dpd = false :=
  ⟨rfl, rfl, ready_at _, slot_at _, rfl, rfl⟩
/-- A header call and a data call that fail. -/
theorem witness_FirstFrameFailureEndsRequest :
    (Ready deadBus ∧ opensWithFrame P (.reqWrite 0 1 [0]) = true ∧ opensWithFrame P .reqInitialize = true ∧
      opensWithFrame P (.reqEraseSector 0x005000 0) = true ∧ firstFrameError P .reqInitialize deadBus.slot = some 7) ∧
    opensWithFrame P .reqReadStatus = true ∧ firstFrameError P .reqReadStatus { Slot.calm with dataErr := some 9 } = some 9 ∧
    opensWithFrame P (.reqRead 0 1) = true ∧ firstFrameError P (.reqRead 0 1) { Slot.calm with dataErr := some 9 } = some 9 :=
  ⟨⟨⟨rfl, rfl, by decide⟩, by decide, rfl, by decide, rfl⟩, by decide, by decide, by decide, by decide⟩
theorem witness_MisalignedSectorRequestsSendNothing :
    eraseOperands P (.reqEraseSector 0x005001 0) = some (false, 0x005001) ∧
    verifyOperands P (.reqVerifySectorErased 0x005FFF) = some (false, 0x005FFF) ∧ Ready State.reset ∧
    State.reset.seq.sel = false ∧ (0x005001 : Word).toNat % P.sectorSize ≠ 0 ∧ (0x005FFF : Word).toNat % P.sectorSize ≠ 0 :=
  ⟨rfl, rfl, ready_reset, rfl, by decide, by decide⟩
theorem witness_EraseRequestsEraseTheSector :
    eraseOperands P (.reqBlockErase 5 9) = some (true, 0x005000) ∧ Ready (at_ unlocked) ∧ BusOk (at_ unlocked) ∧
    Eager (at_ unlocked) ∧ Listening unlocked ∧ Memory.wf unlocked.mem = true ∧
    (0x005000 : Word).toNat % P.sectorSize = 0 ∧ Unprotected unlocked (sectorOf P 0x005000) (sectorOf P 0x005000 + P.sectorSize) :=
  ⟨rfl, ready_at _, busOk_at _, eager_at _, listening_unlocked, rfl, by decide, fun _ _ _ => rfl⟩
/-- The two clauses: an erased sector, and one whose last byte is the first that is not erased. -/
theorem witness_VerifyRequestsFindErasedSectors :
    verifyOperands P (.reqBlockEraseVerify 5) = some (true, 0x005000) ∧ Ready (at_ unlocked) ∧ BusOk (at_ unlocked) ∧
    Listening unlocked ∧ (0x005000 : Word).toNat % P.sectorSize = 0 ∧ (∀ x, memRead unlocked.mem x = 0xFF) ∧
    0xFFF < P.sectorSize ∧ memRead [(0x005FFF, 0x00)] (sectorOf P 0x005000 + 0xFFF) ≠ 0xFF ∧
    ∀ k, k < 0xFFF → memRead [(0x005FFF, 0x00)] (sectorOf P 0x005000 + k) = 0xFF := by
  refine ⟨rfl, ready_at _, busOk_at _, listening_unlocked, by decide, fun _ => rfl, by decide, by decide, fun k hk => ?_⟩
  have h : sectorOf P 0x005000 = 0x005000 := by decide
  rw [h, memRead, if_neg (by omega)]; rfl
theorem witness_WriteStatusRequestWritesConfig : Ready (at_ unlocked) ∧ BusOk (at_ unlocked) ∧ Listening unlocked :=
  ⟨ready_at _, busOk_at _, listening_unlocked⟩
theorem witness_UnlockRequestUnprotectsEverything : Ready State.reset ∧ BusOk State.reset ∧ Listening State.reset.dev :=
  ⟨ready_reset, busOk_at _, rfl, rfl, rfl⟩
/-- A write across a page boundary, from a buffer that is longer. -/
theorem witness_WriteRequestsProgramTheRange :
    writeOperands P (.reqWrite 0x0000FF 2 [0x11, 0x22, 0x33]) = some (false, 0x0000FF, 2, [0x11, 0x22, 0x33]) ∧
    Ready (at_ unlocked) ∧ BusOk (at_ unlocked) ∧ Eager (at_ unlocked) ∧ Listening unlocked ∧ Memory.wf unlocked.mem = true ∧
    (∀ j, j < 2 → protAt unlocked.prot (targetAddr P 0x0000FF j) = false) ∧
    (∀ j k, j < k → k < 2 → targetAddr P 0x0000FF j ≠ targetAddr P 0x0000FF k) ∧
    ((0x0000FF : Word).toNat % 2 ^ 24 + 2 ≤ 2 ^ 24 ∨ 2 ^ 24 % P.deviceSize = 0) := by
  refine ⟨rfl, ready_at _, busOk_at _, eager_at _, listening_unlocked, rfl, fun _ _ => rfl, fun j k h1 h2 => ?_, by decide⟩
  obtain rfl : j = 0 := by omega
  obtain rfl : k = 1 := by omega
  decide
theorem tiled_polling : Tiled 0x006000 1 polling := by
  refine ⟨nofun, fun t h => ?_⟩
  obtain rfl : (⟨.write false 0x006000 1, .poll⟩ : Task) = t := Option.some.inj h
  exact ⟨1, by decide, by decide, by decide, rfl⟩
theorem witness_WriteRequestsTileTheRange :
    (writeOperands P (.reqBlockWrite 0x0010FE 0 []) = some (true, 0x0010FE, 0, []) ∧
      ∃ t, exec (.reqBlockWrite 0x0010FE 0 []) (at_ unlocked) = .next t ∧ t.seq.op = none ∧ t.seq.st = .ok) ∧
    Inv polling ∧ polling.seq.op = some ⟨.write false 0x006000 1, .poll⟩ ∧ Tiled 0x006000 (1 : Word).toNat polling ∧
    ∃ t, step polling = .next t :=
  ⟨⟨rfl, _, rfl, rfl, rfl⟩, witness_StepKeepsInvariant_polling.1, rfl, tiled_polling, _, rfl⟩
theorem witness_ProgramFramesStayInPage :
    (isFrame (.reqWrite 0 0 []) = false ∧ ∃ t, exec (.reqWrite 0 0 []) (at_ unlocked) = .next t) ∧
    Inv polling ∧ polling.seq.op = some ⟨.write false 0x006000 1, .poll⟩ ∧
    (∀ r ∈ polling.trace, programInPage P.ops r) ∧ ∃ t, step polling = .next t := by
  refine ⟨⟨rfl, _, rfl⟩, witness_StepKeepsInvariant_polling.1, rfl, fun r hr _ x y z d h => ?_, _, rfl⟩
  obtain rfl : r = { tx := [0x02, 0x00, 0x60, 0x00, 0x3C], rx := [], err := none } := by simpa [polling] using hr
  obtain ⟨rfl, rfl, rfl, rfl⟩ : 0x00 = x ∧ 0x60 = y ∧ 0x00 = z ∧ [(0x3C : Byte)] = d := by
    simpa [Params.default, Opcodes.default] using h
  decide
/-- A match, a mismatch and a transport error; the timeout test on either side of its bound; the wait. -/
theorem witness_IdentifierWaitRepeatsUntilMatch :
    (∃ t, step (waiting (.bringUp false) .identify unlocked) = .next t ∧
      t.trace = [{ tx := [0x9F], rx := [0xBF, 0x26, 0x43], err := none }]) ∧
    (∃ t, step (standing (.bringUp false) .identify Context.zero deadBus) = .next t ∧
      t.trace = [{ tx := [0x9F], rx := [], err := some 7 }]) ∧
    (∃ t, step { waiting (.bringUp false) .test unlocked with clock := 1001 } = .next t ∧
      P.tInitMs ≠ 0 ∧ P.tInitMs < t.clock - 0) ∧
    (∃ t, step { waiting (.bringUp false) .test unlocked with clock := 1000 } = .next t ∧ t.clock - 0 ≤ P.tInitMs) ∧
    ∃ t, step (waiting (.bringUp false) .wait unlocked) = .next t :=
  ⟨⟨_, rfl, by decide⟩, ⟨_, rfl, by decide⟩, ⟨_, rfl, by decide, by decide⟩, ⟨_, rfl, by decide⟩, _, rfl⟩
/-- A bring-up that waits for an identifier which does not match, at a point and a time. -/
def handshake (pt : Point) (clock : Nat) : State :=
  { waiting (.bringUp false) pt { unlocked with id := { vendor := 0xFF, device := 0xFF, capacity := 0xFF } } with clock := clock }
/-- What a poll, a latch check and a check of the cleared latch read from a device with and without the latch, and from a
busy one. -/
theorem reads_status (d : Dev) (hd : d = unlocked ∨ d = latched ∨ d = programming) :
    (∃ t, step (waiting (.busyPoll 3) .poll d) = .next t ∧
      t.trace = [{ tx := [0x05], rx := [statusByte 0 d], err := none }]) ∧
    ∀ pt, pt = .latch ∨ pt = .cleared → ∃ t, step (waiting .unlockAllBlocks pt d) = .next t ∧
      t.trace = [{ tx := [0x05], rx := [statusByte 0 d], err := none }] := by
  refine ⟨⟨_, step_of_op rfl, ?_⟩, ?_⟩
  · unfold resumeOp
    rw [settle_trace]
    rcases hd with rfl | rfl | rfl <;>
      (dsimp only [atPoint, pollOnce]; rw [onOk_ok rfl]; split <;> rfl)
  · rintro pt (rfl | rfl) <;> refine ⟨_, step_of_op rfl, ?_⟩ <;> unfold resumeOp <;> rw [settle_trace] <;>
      rcases hd with rfl | rfl | rfl <;>
      (dsimp only [atPoint, latchCheck, checkCleared]; rw [onOk_ok rfl]; split <;> rfl)
/-- A request that returns at once; a sample; a point that goes on and one that returns; the test of each operation that
waits, past its bound and not; a poll of a busy and of a ready device; the window of the first test, and of the last one in
time and the one after it, which is out of time at the end of the window. -/
theorem witness_TimeoutComesOnlyAfterBound :
    (isFrame .reqWriteEnable = false ∧ ∃ t, exec .reqWriteEnable State.reset = .next t ∧ t.seq.op = none) ∧
    (∃ t, step (waiting (.busyPoll 3) .sample programming) = .next t) ∧
    (∃ t, step (waiting (.busyPoll 3) .wait programming) = .next t ∧ t.seq.op ≠ none) ∧
    (∃ t, step (standing .reset .rst Context.zero deadBus) = .next t ∧ t.seq.op = none) ∧
    (HasBound P (.busyPoll 3) 3 ∧
      ∃ t, step { waiting (.busyPoll 3) .test programming with clock := 4 } = .next t ∧ 3 < t.clock - 0) ∧
    (HasBound P (.write false 0 1) P.tProgMs ∧
      ∃ t, step { waiting (.write false 0 1) .test programming with clock := 10 } = .next t ∧ t.clock - 0 ≤ P.tProgMs) ∧
    (HasBound P (.eraseSector false 0) P.tEraseMs ∧
      ∃ t, step { waiting (.eraseSector false 0) .test erasing with clock := 101 } = .next t ∧ P.tEraseMs < t.clock - 0) ∧
    (HasBound P (.bringUp true) P.tInitMs ∧
      ∃ t, step (waiting (.bringUp true) .test unlocked) = .next t ∧ t.clock - 0 ≤ P.tInitMs) ∧
    ((∃ t, step (waiting (.busyPoll 3) .poll programming) = .next t ∧
        t.trace = [{ tx := [0x05], rx := [statusByte 0 programming], err := none }]) ∧
      byteBusy (statusByte 0 programming) = true) ∧
    ((∃ t, step (waiting (.busyPoll 3) .poll unlocked) = .next t ∧
        t.trace = [{ tx := [0x05], rx := [statusByte 0 unlocked], err := none }]) ∧
      byteBusy (statusByte 0 unlocked) = false) ∧
    (∃ b c d, step (handshake .sample 0) = .next b ∧ step b = .next c ∧ c.seq.op = some ⟨.bringUp false, .test⟩ ∧
      step c = .next d ∧ d.clock ≤ b.clock + P.pollIntervalMs) ∧
    ∃ b c d e, step (handshake .test 1000) = .next b ∧ b.seq.op ≠ none ∧ step b = .next c ∧ step c = .next d ∧
      d.seq.op = some ⟨.bringUp false, .test⟩ ∧ step d = .next e ∧ e.clock ≤ b.clock + P.pollIntervalMs ∧
      e.seq.st = .timeout ∧ e.clock = P.tInitMs + P.pollIntervalMs :=
  ⟨⟨rfl, _, rfl, rfl⟩, ⟨_, rfl⟩, ⟨_, rfl, nofun⟩, ⟨_, rfl, rfl⟩, ⟨.inl ⟨3, rfl, rfl⟩, _, rfl, by decide⟩,
    ⟨.inr (.inr (.inl ⟨_, _, _, rfl, rfl⟩)), _, rfl, by decide⟩, ⟨.inr (.inr (.inr ⟨_, _, rfl, rfl⟩)), _, rfl, by decide⟩,
    ⟨.inr (.inl ⟨_, rfl, rfl⟩), _, rfl, by decide⟩,
    ⟨(reads_status _ (.inr (.inr rfl))).1, by simp [programming, latched]⟩, ⟨(reads_status _ (.inl rfl)).1, by simp [unlocked, Dev.atPowerOn]⟩,
    ⟨_, _, _, rfl, rfl, rfl, rfl, by decide⟩, _, _, _, _, rfl, nofun, rfl, rfl, rfl, rfl, by decide, rfl, rfl⟩
theorem witness_UnboundedPollOfBusyDeviceWaits :
    validParams P = true ∧ (waiting (.busyPoll 0) .poll programming).seq.op = some ⟨.busyPoll 0, .poll⟩ ∧
    BusOk (waiting (.busyPoll 0) .poll programming) ∧ NeverCompletes (waiting (.busyPoll 0) .poll programming) ∧
    programming.busy = true ∧ programming.dpd = false :=
  ⟨by decide, rfl, ⟨nofun, rfl, rfl, rfl⟩, ⟨nofun, rfl⟩, rfl, rfl⟩
theorem witness_BringUpResetsAndUnlocks :
    bringUp .reqInitialize = some false ∧ bringUp (.reqSystemError 1) = some true ∧ Ready (at_ programming) ∧
    BusOk (at_ programming) ∧ programming.dpd = false ∧ programming.id = P.expectedId ∧ Memory.wf programming.mem = true :=
  ⟨rfl, rfl, ready_at _, busOk_at _, rfl, rfl, rfl⟩
theorem witness_StatusesAreThoseOfTheTable :
    (isFrame (.reqEraseSector 0x005001 0) = false ∧
      ∃ t, exec (.reqEraseSector 0x005001 0) State.reset = .next t ∧ t.seq.op = none ∧ t.seq.st = .alignmentError) ∧
    ownPoint P (.busyPoll 3) .test = true ∧
    ∃ t, step { waiting (.busyPoll 3) .test programming with clock := 4 } = .next t ∧ t.seq.op = none ∧ t.seq.st = .timeout :=
  ⟨⟨rfl, _, rfl, rfl, rfl⟩, rfl, _, rfl, rfl, rfl⟩
theorem witness_RequestsWithoutMeaningAreRefused :
    (isFrame .reqCheckId = false ∧ (waiting (.busyPoll 3) .poll programming).seq.op ≠ none) ∧
    ((0x0E : Byte).toNat = 0x0E ∧ (0x0F : Byte).toNat = 0x0F ∧ 0x15 ≤ (0x15 : Byte).toNat) ∧
    (presenting (.wire (.request [0x15]))).inbox = .wire (.request (0x15 :: [])) :: [] ∧
    2 ^ 32 ≤ (0x40000000 : Word).toNat * P.wordSize ∧
    2 ^ 32 ≤ (0x100000 : Word).toNat * P.wordsPerBlock * P.wordSize := by decide
/-- A command that consumes the latch, just after the frame that saw it; a latch check and a check of the cleared latch, each of a
device with and without the latch; a request that returns at once. -/
theorem witness_LatchIsCheckedBeforeUse :
    (isFrame .reqReset = false ∧ ∃ t, exec .reqReset State.reset = .next t) ∧ validParams P = true ∧
    LatchGuarded { waiting .unlockAllBlocks .command latched with trace := [{ tx := [0x05], rx := [0x02], err := none }] } ∧
    (∃ t, step { waiting .unlockAllBlocks .command latched with trace := [{ tx := [0x05], rx := [0x02], err := none }] }
      = .next t) ∧
    (isFrame .reqCheckId = false ∧ ∃ t, exec .reqCheckId State.reset = .next t ∧ t.seq.op = none) ∧
    (byteWel (statusByte 0 unlocked) = false ∧ byteWel (statusByte 0 latched) = true) ∧
    ∀ d pt, d = unlocked ∨ d = latched → pt = .latch ∨ pt = .cleared →
      ∃ t, step (waiting .unlockAllBlocks pt d) = .next t ∧
        t.trace = [{ tx := [0x05], rx := [statusByte 0 d], err := none }] := by
  refine ⟨⟨rfl, _, rfl⟩, by decide, ⟨fun before r after h hc => ?_, fun _ _ => ⟨[], _, rfl, rfl, rfl, 0x02, rfl, by decide⟩⟩,
    ⟨_, rfl⟩, ⟨rfl, _, rfl, rfl⟩, ⟨by simp [unlocked, Dev.atPowerOn], by simp [latched]⟩, ?_⟩
  rotate_left
  · exact fun d pt hd => (reads_status d (hd.imp_right .inl)).2 pt
  obtain ⟨b, hb, hc⟩ := hc
  cases before with
  | nil =>
    obtain ⟨rfl, rfl⟩ := List.cons.inj h
    obtain rfl := Option.some.inj hb
    exact absurd hc (by decide)
  | cons x l =>
    have := (List.cons.inj h).2
    simp at this
theorem witness_ProtectedTargetIsLostSilently :
    (eraseOperands P (.reqEraseSector 0x005000 0) = some (false, 0x005000) ∧ Ready State.reset ∧ BusOk State.reset ∧
      Listening State.reset.dev ∧ (0x005000 : Word).toNat % P.sectorSize = 0 ∧
      ¬ Unprotected State.reset.dev (sectorOf P 0x005000) (sectorOf P 0x005000 + P.sectorSize)) ∧
    (writeOperands P (.reqWrite 0x004000 1 [0x55]) = some (false, 0x004000, 1, [0x55]) ∧ P.verifyAfterWrite = false ∧
      ∀ j, j < 1 → protAt State.reset.dev.prot (targetAddr P 0x004000 j) = true) := by
  refine ⟨⟨rfl, ready_reset, busOk_at _, ⟨rfl, rfl, rfl⟩, by decide, fun h => ?_⟩, rfl, rfl, fun j hj => ?_⟩
  · have := h 0x005000 (by decide) (by decide)
    exact absurd this (by decide)
  · obtain rfl : j = 0 := by omega
    decide
/-- A first frame, a later frame, and the identifier check of the bring-up, each on a bus that fails. -/
theorem witness_TransportFailureEndsOperation :
    (isFrame .reqWriteEnable = false ∧ ∃ t, exec .reqWriteEnable deadBus = .next t ∧
      t.trace = [{ tx := [0x06], rx := [], err := some 7 }]) ∧
    ((∀ a, Op.busyPoll 3 ≠ .bringUp a) ∧ sendsNothing .poll = false ∧ deadBus.slot.hdrErr = some 7 ∧
      ∃ t, step (standing (.busyPoll 3) .poll Context.zero deadBus) = .next t ∧
        t.trace = [] ++ [{ tx := [0x05], rx := [], err := some 7 }]) ∧
    ∃ t, step (standing (.bringUp false) .identify Context.zero deadBus) = .next t ∧
      t.trace = [] ++ [{ tx := [0x9F], rx := [], err := some 7 }] :=
  ⟨⟨rfl, _, rfl, by decide⟩, ⟨nofun, rfl, rfl, _, rfl, by decide⟩, _, rfl, by decide⟩
theorem witness_SelectAndDeselectMatch :
    (isFrame .reqReset = false ∧ State.reset.seq.sel = false ∧ ∃ t, exec .reqReset State.reset = .next t) ∧
    ∃ s t, s.seq.op = some ⟨.busyPoll 3, .poll⟩ ∧ s.seq.sel = false ∧ s.seq.ph = .idle ∧ Bracketed s ∧ step s = .next t :=
  ⟨⟨rfl, rfl, _, rfl⟩, waiting (.busyPoll 3) .poll programming, _, rfl, rfl, rfl, rfl, rfl⟩
/-- A poll that returns, through the law of the poll, since the status byte has free bits; and one of a write that goes on to
its write-disable. -/
theorem witness_BusyPollIsABarrier :
    (Ready (at_ unlocked) ∧ BusOk (at_ unlocked) ∧ Listening unlocked) ∧ validParams P = true ∧ DevOk P unlocked ∧
    unlocked.dpd = false ∧
    (∃ t, step (standing (.busyPoll 3) .poll Context.zero (at_ unlocked)) = .next t ∧ t.seq.op = none ∧ t.seq.st = .ok) ∧
    ∃ t, step (standing (.eraseSector false 0) .poll Context.zero (at_ unlocked)) = .next t ∧
      t.seq.op = some ⟨.eraseSector false 0, .disable⟩ := by
  have hp : ∀ op, ∃ t, atPoint op .poll (standing op .poll Context.zero (at_ unlocked)) = whenReady op t := fun op => by
    obtain ⟨t, _, h, -, -⟩ := poll_awake (s := standing op .poll Context.zero (at_ unlocked))
      (show validParams P = true by decide) (busOk_at unlocked) rfl op
    exact ⟨t, h⟩
  refine ⟨⟨ready_at _, busOk_at _, listening_unlocked⟩, by decide, ⟨by decide, trivial, rfl, rfl⟩, rfl, ?_, ?_⟩
  · obtain ⟨t, h⟩ := hp (.busyPoll 3)
    refine ⟨_, step_of_op rfl, ?_⟩
    unfold resumeOp; rw [h]; exact ⟨rfl, rfl⟩
  · obtain ⟨t, h⟩ := hp (.eraseSector false 0)
    refine ⟨_, step_of_op rfl, ?_⟩
    unfold resumeOp; rw [h]; rfl

end Sys2Proof.Tests
end

section
/-! PROOFS. What a step is and what it adds (00_scope R6): a fetched instruction runs, and a step of an operation is one
frame, one clock sample or one wait. -/

namespace Sys2Proof.Machine

/-! ### Fetching (R6, R164) -/

/-- What the host presents next runs when it decodes to an instruction. -/
theorem step_of_decode {s : State} {w : Wire} {later : List Item} {i : Instr} (ho : s.seq.op = none)
    (hi : s.inbox = .wire w :: later) (hd : decode s.cfg w = .ok i) : step s = exec i { s with inbox := later } := by
  have hf : fetchItem (.wire w) { s with inbox := later } = .instr i { s with inbox := later } := by
    simp only [fetchItem, hd]
  rw [step_of_item ho hi, hf]

/-- Settles O6, by the two cases of the fetch. -/
theorem stepRunsDecodedInstruction : Obligations.StepRunsDecodedInstruction :=
  ⟨fun _ _ _ _ => step_of_decode, fun _ _ => step_of_op⟩

/-! ### One frame, one sample or one wait (R6, ruling D1) -/

theorem Recorded.exists_record {hdr dout rx : List Byte} {nin : Nat} {before after : List FrameRec} {st : Status}
    (h : Recorded hdr dout nin before after st rx) : ∃ r, after = before ++ [r] := by
  cases h with
  | ok _ _ trace => exact ⟨_, trace⟩
  | failed _ _ _ _ trace => exact ⟨_, trace⟩

/-- A step at a point that sends is one frame: one slot, its time, and one record. -/
theorem atPoint_sends (op : Op) {pt : Point} (s : State) (h : sendsNothing pt = false) :
    (atPoint op pt s).2.env = s.env.tail ∧ (atPoint op pt s).2.clock = s.clock + s.slot.tick ∧
    ∃ r, (atPoint op pt s).2.trace = s.trace ++ [r] := by
  have hsome : (pointFrame op pt s).isSome = true := by rw [pointFrame_isSome, h]; rfl
  obtain ⟨⟨hdr, dout, nin⟩, hf⟩ := Option.isSome_iff_exists.mp hsome
  obtain ⟨st, rx, hs⟩ := atPoint_frame hf
  exact ⟨hs.env, hs.clock, hs.recorded.exists_record⟩

/-- Whatever its point, a step takes one slot of the schedule. -/
theorem atPoint_env (op : Op) (pt : Point) (s : State) : (atPoint op pt s).2.env = s.env.tail := by
  cases h : sendsNothing pt with
  | false => exact (atPoint_sends op s h).1
  | true => exact (atPoint_quiet h).2.2

/-- Whatever its point, a step adds at most one record. -/
theorem atPoint_trace_length_le (op : Op) (pt : Point) (s : State) :
    (atPoint op pt s).2.trace.length ≤ s.trace.length + 1 := by
  cases h : sendsNothing pt with
  | false =>
    obtain ⟨-, -, r, hr⟩ := atPoint_sends op s h
    rw [hr, List.length_append, List.length_singleton]
  | true =>
    rw [(atPoint_quiet h).1]
    exact Nat.le_succ _

theorem timeTest_clock (bound : Nat) (s : State) : (timeTest bound s).2.clock = s.clock + s.slot.tick := by
  unfold timeTest
  dsimp only
  split_ifs <;> exact s.pass_clock

/-- A clock sample takes no time of its own. -/
theorem atPoint_sample_clock (op : Op) {pt : Point} (s : State) (h : pt = .sample ∨ pt = .test) :
    (atPoint op pt s).2.clock = s.clock + s.slot.tick := by
  rcases h with rfl | rfl
  · exact s.sampleT0_clock
  · exact timeTest_clock _ s

/-- A request as accepted has sent at most the frame of its first step, a misaligned one none (R164). -/
theorem startOp_trace_length_le (op : Op) (s : State) : (startOp op s).trace.length ≤ 1 := by
  rcases startOp_cases op s with ⟨-, h⟩ | ⟨-, h⟩ <;> rw [h]
  · rw [settle_trace]
    exact atPoint_trace_length_le ..
  · exact Nat.zero_le 1

/-- Settles O11: the step of an operation by whether its point sends a frame, the step of a request by its first step. -/
theorem stepIsOneFrameSampleOrWait : Obligations.StepIsOneFrameSampleOrWait := by
  refine ⟨fun s t task ho h => ?_, fun s t i hf h => ?_⟩
  · rw [step_of_op ho] at h
    injection h with h
    subst h
    simp only [resumeOp, settle_env, settle_clock, settle_trace, settle_phases]
    refine ⟨atPoint_env .., fun hp => (atPoint_sends task.op s hp).2, fun hp => ?_, atPoint_sample_clock task.op s,
      fun hp => ?_⟩
    · obtain ⟨htrace, hphases, -⟩ := atPoint_quiet (op := task.op) (s := s) hp
      exact ⟨htrace, hphases⟩
    · rw [hp]
      exact s.waitPoll_clock
  · obtain ⟨-, op, -, rfl⟩ := exec_of_request hf h
    exact startOp_trace_length_le ..

end Sys2Proof.Machine
end

section
/-! PROOFS. What every step keeps (10_state): the parameters, the read-only parts of the device, the clock's direction, the
released bus, and a sound device. -/

namespace Sys2Proof.Machine

/-! ### What every step keeps, whatever it does -/

/-- What a step of any kind keeps: of `Rests` the part that holds for the host's own items too, and a schedule in which the
bus does not fail. -/
structure StepKeeps (s t : State) : Prop where
  cfg   : t.cfg = s.cfg
  parts : SameParts s.dev t.dev
  clock : s.clock ≤ t.clock
  dev   : validParams s.cfg = true → DevOk s.cfg s.dev → DevOk s.cfg t.dev
  idle  : s.seq.ph = .idle → t.seq.ph = .idle
  sel   : s.seq.sel = false → t.seq.sel = false
  bus   : BusOk s → BusOk t

theorem StepKeeps.trans {s t u : State} (h : StepKeeps s t) (g : StepKeeps t u) : StepKeeps s u where
  cfg := g.cfg.trans h.cfg
  parts := h.parts.trans g.parts
  clock := Nat.le_trans h.clock g.clock
  dev hv hd := by
    have := g.dev (h.cfg ▸ hv) (h.cfg ▸ h.dev hv hd)
    rwa [h.cfg] at this
  idle := g.idle ∘ h.idle
  sel := g.sel ∘ h.sel
  bus := g.bus ∘ h.bus

/-- The host's item is taken from the inbox. -/
theorem takeItem_stepKeeps (s : State) (later : List Item) : StepKeeps s { s with inbox := later } :=
  ⟨rfl, SameParts.refl _, Nat.le_refl _, fun _ h => h, id, id, id⟩

/-- A part of an operation that takes one slot of the schedule. -/
theorem Rests.stepKeeps {s t : State} (h : Rests s t) (he : t.env = s.env.tail) : StepKeeps s t :=
  ⟨h.cfg, h.parts, h.clock, h.dev, h.idle, h.sel, fun hb => hb.of_tail he h.rest⟩

theorem pass_stepKeeps (s : State) : StepKeeps s s.pass := (pass_rests s).stepKeeps rfl

theorem settle_idle (op : Op) {r : Run} (h : r.2.seq.ph = .idle) : (settle op r).seq.ph = .idle := by
  rcases settle_cases op r with ⟨st, -, e⟩ | ⟨pt, -, e⟩ <;> rw [e]
  · rfl
  · exact h

theorem settle_stepKeeps (op : Op) (r : Run) : StepKeeps r.2 (settle op r) where
  cfg := settle_cfg op r
  parts := by rw [settle_dev]; exact SameParts.refl _
  clock := by rw [settle_clock]
  dev _ h := by rw [settle_dev]; exact h
  idle := settle_idle op
  sel h := by rw [settle_sel]; exact h
  bus h := by simpa only [BusOk, settle_env, settle_rest] using h

theorem resumeOp_stepKeeps (task : Task) (s : State) : StepKeeps s (resumeOp task s) :=
  ((atPoint_rests task.op task.pt s).stepKeeps (atPoint_env ..)).trans (settle_stepKeeps ..)

theorem begin_stepKeeps (task : Task) (c : Context) (s : State) : StepKeeps s (s.begin task c) :=
  ⟨rfl, SameParts.refl _, Nat.le_refl _, fun _ h => h, id, id, id⟩

theorem finish_stepKeeps (adapter : Bool) (st : Status) (s : State) : StepKeeps s (s.finish adapter st) :=
  ⟨rfl, SameParts.refl _, Nat.le_refl _, fun _ h => h, fun _ => rfl, id, id⟩

theorem lend_stepKeeps (buf : List Byte) (s : State) : StepKeeps s (s.lend buf) :=
  ⟨rfl, SameParts.refl _, Nat.le_refl _, fun _ h => h, id, id, id⟩

theorem startOp_stepKeeps (op : Op) (s : State) : StepKeeps s (startOp op s) := by
  rcases startOp_cases op s with ⟨-, e⟩ | ⟨-, e⟩ <;> rw [e]
  · exact (begin_stepKeeps _ _ s).trans (resumeOp_stepKeeps { op := op, pt := opening op } _)
  · exact (begin_stepKeeps _ _ s).trans (finish_stepKeeps ..)

/-- A frame put on the bus directly is consumed by the device, or has no meaning (R120). -/
theorem directFrame_next {i : Instr} {s t : State} (h : directFrame i s = .next t) :
    t = s.consumed (encode s.cfg i).sent (devFrame s.cfg s.draw i s.dev) := by
  unfold directFrame at h
  dsimp only at h
  split at h
  · cases h
  · injection h with h
    exact h.symm

theorem directFrame_stepKeeps {i : Instr} {s t : State} (h : directFrame i s = .next t) : StepKeeps s t := by
  rw [directFrame_next h]
  exact ⟨rfl, devFrame_sameParts .., Nat.le_refl _, fun hv hd => devFrame_devOk (paramFacts hv) _ _ hd, id, id, id⟩

theorem malformedFrame_stepKeeps (tx : List Byte) (n : Nat) (s : State) : StepKeeps s (malformedFrame tx n s) :=
  ⟨rfl, ⟨rfl, rfl, rfl, rfl⟩, Nat.le_refl _, fun _ hd => ⟨hd.busy_iff, hd.pend_ok, hd.mem_wf, hd.mem_in⟩, id, id,
    id⟩

theorem geometryQuery_stepKeeps (s : State) : StepKeeps s s.geometryQuery :=
  ⟨rfl, SameParts.refl _, Nat.le_refl _, fun _ h => h, id, id, id⟩

/-- A power-on comes with nothing in flight, and acts on the device only (R45, R307). -/
theorem powerOn_next {s t : State} (h : s.powerOn = .next t) :
    t = (s.withDev (powerOnDev s.cfg s.draw s.dev)).drawn := by
  unfold State.powerOn at h
  split at h
  · injection h with h
    exact h.symm
  · cases h
  · cases h

theorem powerOn_stepKeeps {s t : State} (h : s.powerOn = .next t) : StepKeeps s t := by
  rw [powerOn_next h]
  exact ⟨rfl, ⟨rfl, rfl, rfl, rfl⟩, Nat.le_refl _, fun _ hd => powerOnDev_devOk _ hd, id, id, id⟩

theorem seqReset_stepKeeps (s : State) : StepKeeps s s.seqReset :=
  ⟨rfl, SameParts.refl _, Nat.le_refl _, fun _ h => h, fun _ => rfl, fun _ => rfl, id⟩

theorem step_stepKeeps {s t : State} (h : step s = .next t) : StepKeeps s t := by
  rcases step_cases h with ⟨task, -, rfl⟩ | ⟨-, -, rfl⟩ | ⟨item, later, -, -, h⟩
  · exact resumeOp_stepKeeps task s
  · exact pass_stepKeeps s
  · refine (takeItem_stepKeeps s later).trans ?_
    rcases h with ⟨i, -, h⟩ | ⟨i, op, -, -, -, rfl⟩ | ⟨tx, n, rfl⟩ | rfl | rfl | h | rfl
    · exact directFrame_stepKeeps h
    · exact (lend_stepKeeps ..).trans (startOp_stepKeeps ..)
    · exact malformedFrame_stepKeeps ..
    · exact pass_stepKeeps _
    · exact geometryQuery_stepKeeps _
    · exact powerOn_stepKeeps h
    · exact seqReset_stepKeeps _

/-- Settles O10, by what every step keeps. -/
theorem parametersStayAndClockRises : Obligations.ParametersStayAndClockRises := by
  intro s t h
  obtain ⟨hcfg, ⟨haux, hid, hsfdp, hsid⟩, hclock, -, -, -, -⟩ := step_stepKeeps h
  exact ⟨hcfg, haux, hid, hsfdp, hsid, hclock⟩

/-! ### The bus is released, and each `Select` matched (R25, R160, R163) -/

theorem atPoint_bracketed (op : Op) (pt : Point) {s : State} (h : Bracketed s) : Bracketed (atPoint op pt s).2 := by
  unfold Bracketed at h ⊢
  cases hp : sendsNothing pt with
  | true =>
    obtain ⟨-, hphases, -⟩ := atPoint_quiet (op := op) (s := s) hp
    rw [hphases, h]
  | false =>
    have hsome : (pointFrame op pt s).isSome = true := by rw [pointFrame_isSome, hp]; rfl
    obtain ⟨⟨hdr, dout, nin⟩, hf⟩ := Option.isSome_iff_exists.mp hsome
    obtain ⟨st, rx, hs⟩ := atPoint_frame hf
    rw [hs.selected, hs.deselected, h]

theorem resumeOp_bracketed (task : Task) {s : State} (h : Bracketed s) : Bracketed (resumeOp task s) := by
  unfold resumeOp Bracketed
  rw [settle_phases]
  exact atPoint_bracketed _ _ h

/-- The phases of a request are its own: it begins with none (log 31). -/
theorem startOp_bracketed (op : Op) (s : State) : Bracketed (startOp op s) := by
  rcases startOp_cases op s with ⟨-, e⟩ | ⟨-, e⟩ <;> rw [e]
  · exact resumeOp_bracketed { op := op, pt := opening op } rfl
  · rfl

/-- Settles O59: a frame opens and closes one bracket, and every step gives the bus back. -/
theorem selectAndDeselectMatch : Obligations.SelectAndDeselectMatch := by
  refine ⟨fun s t i hf hsel h => ?_, fun s t task ho hsel hidle hb h => ?_⟩
  · obtain ⟨⟨-, hidle, -⟩, op, -, rfl⟩ := exec_of_request hf h
    have hk := (lend_stepKeeps (inputBuffer i s) s).trans (startOp_stepKeeps op _)
    exact ⟨startOp_bracketed .., hk.sel hsel, hk.idle hidle⟩
  · have hk := step_stepKeeps h
    rw [step_of_op ho] at h
    injection h with h
    subst h
    exact ⟨resumeOp_bracketed task hb, hk.sel hsel, hk.idle hidle⟩

end Sys2Proof.Machine
end

section
/-! PROOFS. The invariant of the machine: what is in progress stands at a point of its own with a sound cursor
(10_state R23, R165), and with what every step keeps, `Inv` holds after every step. -/

namespace Sys2Proof.Machine

/-! ### Where a poll and a slice go on (R174, R200, R205) -/

theorem inChunk_notYet (bound : Nat) : inChunk (notYet bound) = true := by
  unfold notYet; split_ifs <;> rfl

/-- A poll of a write that goes on: busy, to the timeout test or the wait, the cursor as it was; ready, to what comes after
the chunk, the cursor moved on by the chunk. -/
theorem writePoll_goto {ad : Bool} {addr size : Word} {s : State} {pt : Point}
    (h : (atPoint (.write ad addr size) .poll s).1 = .goto pt) :
    ∃ b, (pt = notYet s.cfg.tProgMs ∧
        (atPoint (.write ad addr size) .poll s).2.seq.ctx = { s.seq.ctx with srs := b }) ∨
      (pt = chunkPoint (s.seq.ctx.rem - BitVec.ofNat 32 s.seq.ctx.n.toNat) ∧
        (atPoint (.write ad addr size) .poll s).2.seq.ctx = chunkHead { s.seq.ctx with
          srs := b
          a := s.seq.ctx.a + BitVec.ofNat 32 s.seq.ctx.n.toNat
          off := s.seq.ctx.off + BitVec.ofNat 32 s.seq.ctx.n.toNat
          rem := s.seq.ctx.rem - BitVec.ofNat 32 s.seq.ctx.n.toNat }) := by
  obtain ⟨b, hb⟩ := readStatus_ctx s
  refine ⟨b, ?_⟩
  dsimp only [atPoint, pollOnce, waitBound] at h ⊢
  rcases onOk_cases (readStatus s) _ with ⟨-, e⟩ | ⟨-, e⟩ <;> rw [e] at h ⊢
  · split_ifs at h ⊢
    · exact .inl ⟨(Exit.goto.inj h).symm, hb⟩
    · right
      simp only [whenReady, advanceCursor, State.withCtx_ctx, hb, Exit.goto.injEq] at h ⊢
      exact ⟨h.symm, trivial⟩
  · cases h

/-- A slice of the erase check that goes on: bytes are left, and the next slice is theirs. -/
theorem sliceStep_goto {s : State} {pt : Point} (h : (sliceStep s).1 = .goto pt) :
    pt = .slice ∧ s.seq.ctx.rem - BitVec.ofNat 32 s.cfg.verifySlice ≠ 0 ∧
    (sliceStep s).2.seq.ctx = { s.seq.ctx with
      a := s.seq.ctx.a + BitVec.ofNat 32 s.cfg.verifySlice
      off := s.seq.ctx.off + BitVec.ofNat 32 s.cfg.verifySlice
      rem := s.seq.ctx.rem - BitVec.ofNat 32 s.cfg.verifySlice } := by
  have hctx : (readRange s.seq.ctx.a s.cfg.verifySlice s).s.seq.ctx = s.seq.ctx := (seqFrame_same ..).1
  have hcfg : (readRange s.seq.ctx.a s.cfg.verifySlice s).s.cfg = s.cfg := (readRange_rests ..).cfg
  unfold sliceStep at h ⊢
  dsimp only at h ⊢
  rcases onOk_cases (readRange s.seq.ctx.a s.cfg.verifySlice s) _ with ⟨-, e⟩ | ⟨-, e⟩ <;> rw [e] at h ⊢
  · split_ifs at h ⊢ with _ hr
    simp only [advanceCursor, State.withCtx_ctx, hctx, hcfg] at hr ⊢
    exact ⟨(Exit.goto.inj h).symm, hr, trivial⟩
  · cases h

/-! ### The cursor (R23) -/

section
variable {s : State} {pt pt' : Point}

/-- The cursor of a write, from point to point (R23, R200). -/
theorem WriteCursor.step {ad : Bool} {addr size : Word} (ho : ownPoint s.cfg (.write ad addr size) pt = true)
    (hc : WriteCursor s pt addr size) (hx : (atPoint (.write ad addr size) pt s).1 = .goto pt') :
    WriteCursor (atPoint (.write ad addr size) pt s).2 pt' addr size := by
  have hinp : (atPoint (.write ad addr size) pt s).2.host.inp = s.host.inp := (atPoint_rests ..).inp
  have he := goto_mem_exits hx
  by_cases hp : pt = .poll
  · subst hp
    obtain ⟨b, ⟨rfl, hctx⟩ | ⟨rfl, hctx⟩⟩ := writePoll_goto hx
    · exact hc.congr hinp (t0 := s.seq.ctx.t0) hctx (inChunk_notYet _)
    · exact hc.advance (c := { s.seq.ctx with srs := b }) rfl hinp hctx
  · have hq : pt ≠ .readBack ∧ pt ≠ .slice ∧ pt ≠ .transfer := by
      refine ⟨?_, ?_, ?_⟩ <;> rintro rfl
      · simp [exits] at he
      · cases ho
      · cases ho
    obtain ⟨b, t0, hctx, -⟩ := atPoint_ctx (op := .write ad addr size) hq (fun h => absurd h hp) s
    exact hc.congr hinp hctx (inChunk_next ho he hp)

/-- The address of an erase stands through all its points (R204). -/
theorem eraseCursor_step {ad : Bool} {addr : Word} (ho : ownPoint s.cfg (.eraseSector ad addr) pt = true) :
    (atPoint (.eraseSector ad addr) pt s).2.seq.ctx.a = s.seq.ctx.a := by
  have hq : pt ≠ .readBack ∧ pt ≠ .slice ∧ pt ≠ .transfer := by
    refine ⟨?_, ?_, ?_⟩ <;> rintro rfl <;> cases ho
  obtain ⟨b, t0, hctx, -⟩ := atPoint_ctx (op := .eraseSector ad addr) hq nofun s
  rw [hctx]

/-- A sector fits a word. -/
theorem ParamFacts.sector_le {p : Params} (h : ParamFacts p) : p.sectorSize ≤ 2 ^ 24 :=
  Nat.le_of_dvd (by decide) (Nat.dvd_of_mod_eq_zero h.sector_div)

/-- The cursor of an erase check moves on by a slice, while slices are left (R23, R205). -/
theorem verifyCursor_step {ad : Bool} {addr : Word} (hF : ParamFacts s.cfg)
    (hc : CursorOk s { op := .verifySectorErased ad addr, pt := .slice }) (hx : (sliceStep s).1 = .goto pt') :
    CursorOk (sliceStep s).2 { op := .verifySectorErased ad addr, pt := pt' } := by
  obtain ⟨hal, hpos, hle, hmod, ha⟩ := hc
  obtain ⟨-, hne, hctx⟩ := sliceStep_goto hx
  have hslice := hF.slice_pos
  have hsector := hF.sector_le
  have hv : s.cfg.verifySlice ≤ s.seq.ctx.rem.toNat := Nat.le_of_dvd hpos (Nat.dvd_of_mod_eq_zero hmod)
  have hvw : (BitVec.ofNat 32 s.cfg.verifySlice).toNat = s.cfg.verifySlice := by
    rw [BitVec.toNat_ofNat]; omega
  have hrem : (s.seq.ctx.rem - BitVec.ofNat 32 s.cfg.verifySlice).toNat = s.seq.ctx.rem.toNat - s.cfg.verifySlice := by
    rw [BitVec.toNat_sub_of_le (by rw [BitVec.le_def, hvw]; exact hv), hvw]
  have hrem0 : (s.seq.ctx.rem - BitVec.ofNat 32 s.cfg.verifySlice).toNat ≠ 0 :=
    fun h => hne (BitVec.eq_of_toNat_eq h)
  have hcfg : (sliceStep s).2.cfg = s.cfg := (sliceStep_rests s).cfg
  unfold CursorOk
  dsimp only
  rw [hcfg, hctx]
  dsimp only
  rw [hrem] at hrem0 ⊢
  refine ⟨hal, Nat.one_le_iff_ne_zero.mpr hrem0, by omega, ?_, ?_⟩
  · rw [← Nat.mod_eq_sub_mod hv]; exact hmod
  · rw [ha, BitVec.add_assoc, ← BitVec.ofNat_add]
    congr 2
    omega

/-- Standing at a point moves no register. -/
theorem CursorOk.withTask {task : Task} (h : CursorOk s task) (x : Task) : CursorOk (s.withTask x) task := by
  obtain ⟨op, pt⟩ := task
  cases op
  case write => exact ⟨h.buffer, h.addr, h.total, h.chunk, h.page, h.rest⟩
  all_goals exact h

/-- A step that goes on keeps the cursor of what is in progress. -/
theorem CursorOk.step {op : Op} (hF : ParamFacts s.cfg) (ho : ownPoint s.cfg op pt = true)
    (hc : CursorOk s { op := op, pt := pt }) (hx : (atPoint op pt s).1 = .goto pt') :
    CursorOk (atPoint op pt s).2 { op := op, pt := pt' } := by
  cases op
  case write ad addr size => exact WriteCursor.step ho hc hx
  case eraseSector ad addr =>
    obtain ⟨ha, hal⟩ := hc
    exact ⟨(eraseCursor_step ho).trans ha, by rw [(atPoint_rests ..).cfg]; exact hal⟩
  case verifySectorErased ad addr =>
    obtain rfl : pt = .slice := of_decide_eq_true ho
    exact verifyCursor_step hF hc hx
  all_goals trivial

end

/-! ### Steps of an operation keep the invariant -/

theorem OpOk.of_none {s : State} (h : s.seq.op = none) : OpOk s := fun t ht => by rw [h] at ht; cases ht

/-- The parts of the invariant that a step of any kind keeps, and what is in progress. -/
theorem Inv.of_stepKeeps {s t : State} (h : Inv s) (k : StepKeeps s t) (ho : OpOk t) : Inv t where
  params := by rw [k.cfg]; exact h.params
  idle := k.idle h.idle
  sel := k.sel h.sel
  dev := by rw [k.cfg]; exact k.dev h.params h.dev
  op := ho

theorem resumeOp_opOk {s : State} {op : Op} {pt : Point} (hF : ParamFacts s.cfg) (ho : ownPoint s.cfg op pt = true)
    (hc : CursorOk s { op := op, pt := pt }) : OpOk (resumeOp { op := op, pt := pt } s) := by
  rcases settle_cases op (atPoint op pt s) with ⟨st, -, e⟩ | ⟨pt', hx, e⟩ <;> unfold resumeOp <;> rw [e]
  · exact OpOk.of_none rfl
  · intro t ht
    obtain rfl : ({ op := op, pt := pt' } : Task) = t := Option.some.inj ht
    refine ⟨?_, (CursorOk.step hF ho hc hx).withTask _⟩
    rw [State.withTask_cfg, (atPoint_rests ..).cfg]
    exact ownPoint_next ho (goto_mem_exits hx)

theorem resumeOp_inv {s : State} {task : Task} (h : Inv s) (ho : s.seq.op = some task) : Inv (resumeOp task s) := by
  obtain ⟨hown, hcur⟩ := h.op task ho
  exact h.of_stepKeeps (resumeOp_stepKeeps task s) (resumeOp_opOk (paramFacts h.params) hown hcur)

/-! ### A request begins with a sound cursor (R193, R200, R204, R205) -/

/-- A sector's size survives being put into `SEQ.REM`. -/
theorem sectorSize_toNat {p : Params} (hF : ParamFacts p) : (BitVec.ofNat 32 p.sectorSize).toNat = p.sectorSize := by
  have := hF.sector_le
  rw [BitVec.toNat_ofNat]; omega

theorem begin_cursorOk {op : Op} {s : State} (hF : ParamFacts s.cfg) (ha : rightlyAligned s.cfg op = true)
    (hb : ∀ ad addr size, op = .write ad addr size → size.toNat ≤ s.host.inp.length) :
    CursorOk (s.begin { op := op, pt := opening op } (openingContext s.cfg s.seq.ctx op))
      { op := op, pt := opening op } := by
  cases op
  case write ad addr size => exact WriteCursor.opening (c := s.seq.ctx) (hb ad addr size rfl) rfl
  case eraseSector ad addr => exact ⟨rfl, ha⟩
  case verifySectorErased ad addr =>
    have hrem := sectorSize_toNat hF
    unfold CursorOk
    dsimp only [openingContext, State.begin_ctx, State.begin_cfg]
    rw [hrem]
    exact ⟨ha, hF.sector_pos, Nat.le_refl _, hF.slice_div, by simp⟩
  all_goals trivial

/-- A request that starts a write hands over a buffer of at least its size (R26, R232). -/
theorem requestOp_write_buffer {i : Instr} {s : State} {ad : Bool} {addr size : Word}
    (h : requestOp s.cfg i = some (.write ad addr size)) : size.toNat ≤ (inputBuffer i s).length := by
  cases i <;> simp only [requestOp, Option.some.injEq, reduceCtorEq] at h
  case reqWrite a n buf =>
    split_ifs at h with hl
    obtain ⟨-, -, rfl⟩ := Op.write.inj (Option.some.inj h)
    exact Nat.le_of_not_lt hl
  case reqBlockRead => split_ifs at h; cases h
  case reqBlockWrite a n src =>
    split_ifs at h with hf hl
    obtain ⟨-, -, rfl⟩ := Op.write.inj (Option.some.inj h)
    rw [BitVec.toNat_ofNat]
    exact (Nat.mod_le _ _).trans (Nat.le_of_not_lt hl)
  case reqBlockErase => split_ifs at h; cases h
  case reqBlockEraseVerify => split_ifs at h; cases h

theorem startOp_opOk {op : Op} {s : State} (hF : ParamFacts s.cfg)
    (hb : ∀ ad addr size, op = .write ad addr size → size.toNat ≤ s.host.inp.length) : OpOk (startOp op s) := by
  rcases startOp_cases op s with ⟨ha, e⟩ | ⟨-, e⟩ <;> rw [e]
  · exact resumeOp_opOk hF (ownPoint_opening s.cfg op) (begin_cursorOk hF ha hb)
  · exact OpOk.of_none rfl

/-! ### Every step -/

/-- What is in progress after a step of any kind. -/
theorem step_opOk {s t : State} (hi : Inv s) (h : step s = .next t) : OpOk t := by
  rcases step_cases h with ⟨task, ho, rfl⟩ | ⟨ho, -, rfl⟩ | ⟨item, later, ho, -, h⟩
  · exact (resumeOp_inv hi ho).op
  · exact OpOk.of_none ho
  · rcases h with ⟨i, -, h⟩ | ⟨i, op, -, -, hop, rfl⟩ | ⟨tx, n, rfl⟩ | rfl | rfl | h | rfl
    · rw [directFrame_next h]
      exact OpOk.of_none ho
    · refine startOp_opOk (paramFacts hi.params) fun ad addr size e => ?_
      subst e
      exact requestOp_write_buffer (s := { s with inbox := later }) hop
    · exact OpOk.of_none ho
    · exact OpOk.of_none ho
    · exact OpOk.of_none ho
    · rw [powerOn_next h]
      exact OpOk.of_none ho
    · exact OpOk.of_none rfl

/-- Settles O8: what every step keeps, and what is in progress after it. -/
theorem stepKeepsInvariant : Obligations.StepKeepsInvariant :=
  fun _ _ hi h => hi.of_stepKeeps (step_stepKeeps h) (step_opOk hi h)

/-- Settles O9, part by part: the default parameters meet R7, and nothing is in progress or in flight. -/
theorem resetMeetsInvariant : Obligations.ResetMeetsInvariant where
  params := by decide
  idle := rfl
  sel := rfl
  dev := ⟨by decide, trivial, rfl, rfl⟩
  op := OpOk.of_none rfl

end Sys2Proof.Machine
end

section
/-! PROOFS. What a frame does to the device (40_device_commands R120): it is ignored or taken to its own rule; a
reset resets an armed device, the read-only spaces answer, and no other frame writes the array (10_state R42, R43, R46). -/

namespace Sys2Proof.Machine

/-! ### The two ways a frame is taken -/

theorem devFrame_cases (p : Params) (k : Nat) (i : Instr) (d : Dev) :
    devFrame p k i d = ignored k (received i) { d with arm := isRsten i } ∨
    (Accepts d i ∧ devFrame p k i d = ownRule p k d.arm i { d with arm := isRsten i }) := by
  by_cases ha : Accepts d i
  · by_cases hw : i.wf p = true
    · exact .inr ⟨ha, devFrame_accepted ha hw⟩
    · left
      unfold devFrame
      split_ifs <;> rfl
  · exact .inl (devFrame_ignored ha)

/-- A frame on the bus gives what the device answers, when it answers. -/
theorem frameGives_of_answer {i : Instr} {s : State} {d : Dev} {rx : List Byte} (hf : isFrame i = true)
    (h : devFrame s.cfg s.draw i s.dev = answer d rx) : FrameGives i s d rx := by
  refine ⟨s.consumed (encode s.cfg i).sent (answer d rx), ?_, ⟨rfl, rfl, rfl, rfl, rfl, rfl, rfl, rfl⟩, rfl, rfl⟩
  rw [exec_of_frame hf, directFrame, h]
  rfl

/-! ### No frame writes the array (R42) -/

theorem startErase_mem (k lo hi : Nat) (d : Dev) : (startErase k lo hi d).dev.mem = d.mem := by
  unfold startErase; split_ifs <;> rfl

/-- Only a reset touches the array, and only with something in flight. -/
theorem ownRule_mem (p : Params) (k : Nat) (armed : Bool) {i : Instr} {d : Dev}
    (h : i = .rst → armed = true → d.pend = .none) : (ownRule p k armed i d).dev.mem = d.mem := by
  cases i
  case rst =>
    simp only [ownRule, devRst]
    split_ifs with ha
    · show abortedMem k d = d.mem
      rw [abortedMem, h rfl ha]
    · rfl
  case wrsr => simp only [ownRule, devWrsr]; split_ifs <;> rfl
  case se =>
    simp only [ownRule, devSe]
    split_ifs
    · rfl
    · exact startErase_mem ..
  case be => exact startErase_mem ..
  case ce => exact startErase_mem ..
  case pp => simp only [ownRule, devPp]; split_ifs <;> rfl
  case rbpr => simp only [ownRule, devRbpr]; split_ifs <;> rfl
  case ulbpr => simp only [ownRule, devUlbpr]; split_ifs <;> rfl
  all_goals rfl

/-- Settles O34: a frame is ignored, or its own rule leaves the array. -/
theorem framesNeverWriteArray : Obligations.FramesNeverWriteArray := by
  intro s t i hf h hrst
  rw [exec_of_frame hf] at h
  rw [directFrame_next h, State.consumed_dev]
  rcases devFrame_cases s.cfg s.draw i s.dev with e | ⟨ha, e⟩ <;> rw [e]
  · rfl
  · refine ownRule_mem _ _ _ fun hi harm => hrst hi harm ?_
    subst hi
    exact ha.1.resolve_right nofun

/-! ### Reset (R46, R123) -/

/-- Settles O17: the frame is taken to its own rule outside deep power-down, and ignored in it. -/
theorem resetFrameResetsWhenArmed : Obligations.ResetFrameResetsWhenArmed := by
  intro s hw
  have taken : s.dev.dpd = false →
      devFrame s.cfg s.draw .rst s.dev = devRst s.cfg s.draw s.dev.arm { s.dev with arm := false } :=
    fun hd => devFrame_accepted ⟨.inl hd, .inr rfl⟩ rfl
  refine ⟨fun hd harm => ?_, fun h => frameGives_of_answer rfl ?_⟩
  · refine ⟨Config.freeConfigReg s.draw, abortedMem s.draw { s.dev with arm := false }, resetProtection s.cfg,
      frameGives_of_answer rfl ?_, fun x => protAt_resetProtection s.cfg, fun x hx => ?_⟩
    · rw [taken hd, devRst, if_pos harm]
      rfl
    · exact memRead_abortedMem s.draw (d := { s.dev with arm := false }) hw hx
  · cases hd : s.dev.dpd with
    | true =>
      have hna : ¬ Accepts s.dev .rst := fun ha => by simp [Accepts, hd, isRdpd] at ha
      rw [devFrame_ignored hna]
      rfl
    | false =>
      rw [taken hd, devRst, h.resolve_left (by simp [hd])]
      rfl

/-! ### The read-only byte spaces (R43, R132, R133) -/

/-- Settles O24: the two constants are those of the implementation (log 10). -/
theorem readOnlySpacesReturnTheirBytes : Obligations.ReadOnlySpacesReturnTheirBytes := by
  refine ⟨Config.sfdpByte, Config.sidByte, fun s a b x n hb hd => ?_⟩
  have ha : ∀ i, Accepts s.dev i := fun _ => ⟨.inl hd, .inl hb⟩
  exact ⟨⟨_, frameGives_of_answer rfl (devFrame_accepted (ha _) rfl), by simp, fun j hj => by simp [hj]⟩,
    ⟨_, frameGives_of_answer rfl (devFrame_accepted (ha _) rfl), by simp, fun j hj => by simp [hj]⟩⟩

end Sys2Proof.Machine
end

section
/-! PROOFS. While the bus does not fail, a busy device holds its latch (10_state R32): the device's own rules keep this, and
so does every step, whose device is what a frame or the slot of the schedule leaves. -/

namespace Sys2Proof.Machine

/-- A busy device holds its latch (R32). -/
def LatchHeld (d : Dev) : Prop := d.busy = true → d.wel = true

theorem LatchHeld.of_ready {d : Dev} (h : d.busy = false) : LatchHeld d := fun hb => by rw [h] at hb; cases hb

theorem engineComplete_latchHeld {d : Dev} (h : LatchHeld d) : LatchHeld (engineComplete d) := by
  unfold engineComplete
  split
  · exact h
  · exact .of_ready rfl
  · exact .of_ready rfl

theorem devAtFrame_latchHeld {s : State} (h : LatchHeld s.dev) : LatchHeld (devAtFrame s) := by
  unfold devAtFrame
  split_ifs
  · exact engineComplete_latchHeld h
  · exact h

theorem devRst_latchHeld (p : Params) (k : Nat) (armed : Bool) {d : Dev} (h : LatchHeld d) :
    LatchHeld (devRst p k armed d).dev := by
  unfold devRst
  split_ifs
  · exact .of_ready rfl
  · exact h

/-- An erase starts with the latch set only (R135). -/
theorem startErase_latchHeld (k lo hi : Nat) {d : Dev} (h : d.busy = false) : LatchHeld (startErase k lo hi d).dev := by
  unfold startErase
  split_ifs with hw
  · exact .of_ready h
  · exact fun _ => hw
  · exact .of_ready h

/-- A ready device becomes busy with the latch set only (R134 to R137). -/
theorem ownRule_latchHeld_of_ready (p : Params) (k : Nat) (armed : Bool) (i : Instr) {d : Dev} (h : d.busy = false) :
    LatchHeld (ownRule p k armed i d).dev := by
  cases i
  case rst => exact devRst_latchHeld p k armed (.of_ready h)
  case wrsr => simp only [ownRule, devWrsr]; split_ifs <;> exact .of_ready h
  case rbpr => simp only [ownRule, devRbpr]; split_ifs <;> exact .of_ready h
  case ulbpr => simp only [ownRule, devUlbpr]; split_ifs <;> exact .of_ready h
  case se =>
    simp only [ownRule, devSe]
    split_ifs
    · exact .of_ready h
    · exact startErase_latchHeld _ _ _ h
  case be => exact startErase_latchHeld _ _ _ h
  case ce => exact startErase_latchHeld _ _ _ h
  case pp =>
    simp only [ownRule, devPp]
    split_ifs with hw
    · exact .of_ready h
    · exact .of_ready h
    · exact fun _ => hw
    · exact .of_ready h
  all_goals exact .of_ready h

/-- The frames a busy device takes leave its latch, or end its being busy (R138). -/
theorem ownRule_latchHeld_of_acceptedBusy (p : Params) (k : Nat) (armed : Bool) {i : Instr} (hi : acceptedBusy i = true)
    {d : Dev} (h : LatchHeld d) : LatchHeld (ownRule p k armed i d).dev := by
  cases i <;> simp only [acceptedBusy, Bool.false_eq_true] at hi
  case rst => exact devRst_latchHeld p k armed h
  all_goals exact h

theorem devFrame_latchHeld (p : Params) (k : Nat) (i : Instr) {d : Dev} (h : LatchHeld d) :
    LatchHeld (devFrame p k i d).dev := by
  rcases devFrame_cases p k i d with e | ⟨⟨-, hb | hb⟩, e⟩ <;> rw [e]
  · exact h
  · exact ownRule_latchHeld_of_ready p k d.arm i hb
  · exact ownRule_latchHeld_of_acceptedBusy p k d.arm hb h

theorem devConsume_latchHeld (p : Params) (k : Nat) (tx : List Byte) (n : Nat) {d : Dev} (h : LatchHeld d) :
    LatchHeld (devConsume p k tx n d).dev := by
  unfold devConsume
  split
  · exact devFrame_latchHeld p k _ h
  · exact h

theorem seqFrame_latchHeld {s : State} (hb : s.slot.noError) (hdr dout : List Byte) (nin : Nat) (h : LatchHeld s.dev) :
    LatchHeld (seqFrame hdr dout nin s).s.dev := by
  obtain ⟨-, -, hdev, -⟩ := seqFrame_ok hb hdr dout nin
  rw [hdev]
  exact devConsume_latchHeld _ _ _ _ (devAtFrame_latchHeld h)

/-! ### The device after a step of an operation -/

/-- A device that a frame of `SEQ` leaves, sent with the device and the slot of `s`. -/
def FrameLeaves (s : State) (d : Dev) : Prop :=
  ∃ s1 hdr dout nin, s1.dev = s.dev ∧ s1.slot = s.slot ∧ d = (seqFrame hdr dout nin s1).s.dev

theorem seqFrame_leaves (hdr dout : List Byte) (nin : Nat) (s : State) :
    FrameLeaves s (seqFrame hdr dout nin s).s.dev := ⟨s, hdr, dout, nin, rfl, rfl, rfl⟩

theorem onOk_dev {r : FrameResult} {k : State → Run} (g : ∀ t, (k t).2.dev = t.dev) : (onOk r k).2.dev = r.s.dev := by
  rcases onOk_cases r k with ⟨-, e⟩ | ⟨-, e⟩ <;> rw [e]
  exact g _

theorem onOk_leaves {s : State} {r : FrameResult} {k : State → Run} (h : FrameLeaves s r.s.dev)
    (g : ∀ t, (k t).2.dev = t.dev) : FrameLeaves s (onOk r k).2.dev := by
  rw [onOk_dev g]; exact h

theorem readStatus_dev (s : State) : (readStatus s).s.dev = (seqFrame [s.cfg.ops.rdsr] [] 1 s).s.dev := by
  unfold readStatus
  dsimp only
  split <;> rfl

theorem readStatus_leaves (s : State) : FrameLeaves s (readStatus s).s.dev := by
  rw [readStatus_dev]; exact seqFrame_leaves ..

theorem readRange_leaves (a : Word) (n : Nat) (s : State) : FrameLeaves s (readRange a n s).s.dev :=
  ⟨s.withCtx { s.seq.ctx with a := a }, _, _, _, rfl, rfl, rfl⟩

/-- A step leaves the device as its frame does, or, without a frame, as its slot does (R6, R70). -/
theorem atPoint_dev (op : Op) (pt : Point) (s : State) :
    (atPoint op pt s).2.dev = devAtFrame s ∨ FrameLeaves s (atPoint op pt s).2.dev := by
  cases pt
  case rsten => exact .inr (onOk_leaves (seqFrame_leaves ..) fun _ => rfl)
  case rst => exact .inr (onOk_leaves (seqFrame_leaves ..) fun _ => rfl)
  case sample => exact .inl rfl
  case identify =>
    right
    show FrameLeaves s (identifyStep op s).2.dev
    rw [(identifyStep_of op s).1, (checkId_of s).1]
    exact seqFrame_leaves ..
  case enable => exact .inr (onOk_leaves (seqFrame_leaves ..) fun _ => rfl)
  case latch =>
    have h : FrameLeaves s (readStatus (s.setPhase .latchCheck)).s.dev := by
      rw [readStatus_dev]
      exact ⟨s.setPhase .latchCheck, _, _, _, rfl, rfl, rfl⟩
    exact .inr (onOk_leaves h fun t => by split_ifs <;> rfl)
  case command => exact .inr (onOk_leaves (seqFrame_leaves ..) fun _ => rfl)
  case poll =>
    refine .inr (onOk_leaves (readStatus_leaves s) fun t => ?_)
    split_ifs
    · rfl
    · cases op <;> rfl
  case test =>
    left
    simp only [atPoint, timeTest]
    split_ifs <;> rfl
  case wait => exact .inl rfl
  case disable => exact .inr (onOk_leaves (seqFrame_leaves ..) fun _ => rfl)
  case cleared => exact .inr (onOk_leaves (readStatus_leaves s) fun t => by split_ifs <;> rfl)
  case readBack => exact .inr (onOk_leaves (readRange_leaves ..) fun t => by split_ifs <;> rfl)
  case slice => exact .inr (onOk_leaves (readRange_leaves ..) fun t => by split_ifs <;> rfl)
  case transfer => exact .inr (readRange_leaves ..)
  case status => exact .inr (readStatus_leaves s)
  case config => exact .inr (seqFrame_leaves ..)

theorem resumeOp_latchHeld (task : Task) {s : State} (hb : s.slot.noError) (h : LatchHeld s.dev) :
    LatchHeld (resumeOp task s).dev := by
  unfold resumeOp
  rw [settle_dev]
  rcases atPoint_dev task.op task.pt s with e | ⟨s1, hdr, dout, nin, hdev, hslot, e⟩ <;> rw [e]
  · exact devAtFrame_latchHeld h
  · exact seqFrame_latchHeld (hslot ▸ hb) hdr dout nin (hdev ▸ h)

theorem startOp_latchHeld (op : Op) {s : State} (hb : s.slot.noError) (h : LatchHeld s.dev) :
    LatchHeld (startOp op s).dev := by
  rcases startOp_cases op s with ⟨-, e⟩ | ⟨-, e⟩ <;> rw [e]
  · exact resumeOp_latchHeld { op := op, pt := opening op } hb h
  · exact h

theorem step_latchHeld {s t : State} (hb : BusOk s) (hl : LatchHeld s.dev) (h : step s = .next t) : LatchHeld t.dev := by
  rcases step_cases h with ⟨task, -, rfl⟩ | ⟨-, -, rfl⟩ | ⟨item, later, -, -, h⟩
  · exact resumeOp_latchHeld task hb.slot hl
  · exact devAtFrame_latchHeld hl
  · rcases h with ⟨i, -, h⟩ | ⟨i, op, -, -, -, rfl⟩ | ⟨tx, n, rfl⟩ | rfl | rfl | h | rfl
    · rw [directFrame_next h]
      exact devFrame_latchHeld _ _ i hl
    · exact startOp_latchHeld op (s := State.lend (inputBuffer i s) { s with inbox := later }) hb.slot hl
    · exact hl
    · exact devAtFrame_latchHeld (s := { s with inbox := later }) hl
    · exact hl
    · rw [powerOn_next h]
      exact .of_ready rfl
    · exact hl

/-- Settles O13: a schedule that does not fail stays one, and no step of it takes the latch from a busy device. -/
theorem busyDeviceHoldsLatch : Obligations.BusyDeviceHoldsLatch :=
  fun _ _ hb hl h => ⟨(step_stepKeeps h).bus hb, step_latchHeld hb hl h⟩

end Sys2Proof.Machine
end

section
/-! PROOFS. The completion of what is in flight (10_state R37), the values after reset and the host's other items (R45, R47,
43_block_adapter R237). -/

namespace Sys2Proof.Machine

/-! ### The engine (R37) -/

theorem devAtFrame_of_incomplete {s : State} (h : s.slot.complete = false) : devAtFrame s = s.dev := by
  rw [devAtFrame, h]; rfl

theorem devAtFrame_of_complete {s : State} (h : s.slot.complete = true) : devAtFrame s = engineComplete s.dev := by
  rw [devAtFrame, if_pos h]

/-- With something in flight the engine clears BUSY, WEL and what was in flight, and moves the array. -/
theorem engineComplete_of_some {d : Dev} (h : d.pend ≠ .none) :
    engineComplete d = { d with busy := false, wel := false, pend := .none, mem := (engineComplete d).mem } := by
  unfold engineComplete
  split
  · next hp => exact absurd hp h
  · rfl
  · rfl

/-- A program leaves the AND of each byte with its data byte. -/
theorem memRead_engineComplete_program {d : Dev} (hw : Memory.wf d.mem = true) {a : Nat} {data : List Byte}
    (hp : d.pend = .program a data) {j : Nat} {b : Byte} (hj : data[j]? = some b) :
    memRead (engineComplete d).mem (a + j) = memRead d.mem (a + j) &&& b := by
  obtain ⟨hlt, -⟩ := List.getElem?_eq_some_iff.mp hj
  unfold engineComplete
  rw [hp]
  dsimp only
  rw [memRead_memProgram data hw, if_pos (by omega), Nat.add_sub_cancel_left, List.getD_eq_getElem?_getD, hj]
  rfl

/-- An erase leaves 0xFF. -/
theorem memRead_engineComplete_erase {d : Dev} {lo hi : Nat} (hp : d.pend = .erase lo hi) {x : Nat} (hlo : lo ≤ x)
    (hhi : x < hi) : memRead (engineComplete d).mem x = erasedByte := by
  unfold engineComplete
  rw [hp]
  exact (memRead_memErase d.mem lo hi x).trans (if_pos ⟨hlo, hhi⟩)

/-- Settles O33: an idle step leaves the device as its slot does. -/
theorem engineCompletesInFlight : Obligations.EngineCompletesInFlight := by
  intro s ho hi hw
  refine ⟨s.pass, step_of_idle ho hi, ?_⟩
  rw [pass_dev_eq]
  refine ⟨fun h => ?_, fun hc hp => ?_, fun a d hc hp j b hj => ?_, fun lo hi hc hp x hlo hhi => ?_⟩
  · rcases h with h | h
    · exact devAtFrame_of_incomplete h
    · exact devAtFrame_of_none h
  · rw [devAtFrame_of_complete hc]
    exact ⟨engineComplete_of_some hp, fun x => memRead_engineComplete hw⟩
  · rw [devAtFrame_of_complete hc]
    exact memRead_engineComplete_program hw hp hj
  · rw [devAtFrame_of_complete hc]
    exact memRead_engineComplete_erase hp hlo hhi

/-! ### Reset and what else the host does (R45, R47, R237) -/

/-- Settles O12: the array is protected as `PROT_AFTER_RESET` says, the rest stands in the definition. -/
theorem resetLeavesStatedValues : Obligations.ResetLeavesStatedValues :=
  ⟨rfl, rfl, rfl, rfl, rfl, rfl, rfl, rfl, fun _ => protAt_resetProtection Params.default⟩

theorem powerOn_of_none {s : State} (h : s.dev.pend = .none) :
    s.powerOn = .next (s.withDev (powerOnDev s.cfg s.draw s.dev)).drawn := by
  unfold State.powerOn; rw [h]

/-- Settles O14, one item of the host at a time. -/
theorem hostEventsActAsStated : Obligations.HostEventsActAsStated := by
  refine ⟨fun s later ho hi hp => ?_, fun s later ho hi => ?_, fun s later ho hi => ?_⟩
  · refine ⟨_, (step_of_item ho hi).trans (powerOn_of_none (s := { s with inbox := later }) hp),
      ⟨rfl, rfl, rfl, rfl, rfl, rfl, rfl, rfl⟩, rfl, ?_, fun a => protAt_resetProtection s.cfg⟩
    show powerOnDev s.cfg s.draw s.dev = _
    rw [powerOnDev, ← hp]
    rfl
  · exact ⟨_, step_of_item ho hi, rfl, rfl, rfl, rfl, rfl, rfl, rfl, rfl, rfl⟩
  · exact step_of_item ho hi

end Sys2Proof.Machine
end

section
/-! PROOFS. Every page-program frame of the sequencer stays in one page (20_memory R64, 42_seq_operations R201): only the
command of a write sends one, and the write's cursor bounds it. -/

namespace Sys2Proof.Machine

/-! ### Which step sends a page-program (R165, R170) -/

/-- The frame of a point opens with the opcode of a command, and that command is PP at the command of a write only. -/
theorem pointFrame_opcode {op : Op} {pt : Point} {s : State} {hdr dout : List Byte} {nin : Nat}
    (h : pointFrame op pt s = some (hdr, dout, nin)) :
    ∃ c : Cmd, hdr.head? = some (s.cfg.ops.byte c) ∧
      (c = .pp → pt = .command ∧ ∃ ad addr size, op = .write ad addr size) := by
  cases pt <;> simp only [pointFrame, Option.some.injEq, Prod.mk.injEq, reduceCtorEq] at h <;> obtain ⟨rfl, -, -⟩ := h
  case rsten => exact ⟨.rsten, rfl, nofun⟩
  case rst => exact ⟨.rst, rfl, nofun⟩
  case identify => exact ⟨.rdid, rfl, nofun⟩
  case enable => exact ⟨.wren, rfl, nofun⟩
  case disable => exact ⟨.wrdi, rfl, nofun⟩
  case config => exact ⟨.rdcr, rfl, nofun⟩
  case command =>
    cases op
    case write => exact ⟨.pp, rfl, fun _ => ⟨rfl, _, _, _, rfl⟩⟩
    case eraseSector => exact ⟨.se, rfl, nofun⟩
    case writeStatus => exact ⟨.wrsr, rfl, nofun⟩
    all_goals exact ⟨.ulbpr, rfl, nofun⟩
  case readBack => exact ⟨.read, rfl, nofun⟩
  case transfer => exact ⟨.read, rfl, nofun⟩
  case slice => exact ⟨.read, rfl, nofun⟩
  all_goals exact ⟨.rdsr, rfl, nofun⟩

/-- A frame that opens with the page-program opcode is that of the command of a write. -/
theorem write_of_program_opcode {op : Op} {pt : Point} {s : State} {hdr dout : List Byte} {nin : Nat}
    (hv : validParams s.cfg = true) (h : pointFrame op pt s = some (hdr, dout, nin))
    (hh : hdr.head? = some s.cfg.ops.pp) : pt = .command ∧ ∃ ad addr size, op = .write ad addr size := by
  obtain ⟨c, hc, hpp⟩ := pointFrame_opcode h
  exact hpp (byte_injective hv (d := .pp) (Option.some.inj (hc.symm.trans hh)))

theorem exists_pointFrame (op : Op) {pt : Point} (s : State) (h : sendsNothing pt = false) :
    ∃ hdr dout nin, pointFrame op pt s = some (hdr, dout, nin) := by
  have hsome : (pointFrame op pt s).isSome = true := by rw [pointFrame_isSome, h]; rfl
  obtain ⟨⟨hdr, dout, nin⟩, hf⟩ := Option.isSome_iff_exists.mp hsome
  exact ⟨hdr, dout, nin, hf⟩

/-- What a step adds to the trace: nothing, or one record, which holds the whole frame of its point when no call failed. -/
theorem atPoint_trace_cases (op : Op) (pt : Point) (s : State) :
    (atPoint op pt s).2.trace = s.trace ∨
    ∃ hdr dout nin r, pointFrame op pt s = some (hdr, dout, nin) ∧ (atPoint op pt s).2.trace = s.trace ++ [r] ∧
      (r.err = none → r.tx = hdr ++ dout) := by
  cases hp : sendsNothing pt with
  | true => exact .inl (atPoint_quiet hp).1
  | false =>
    obtain ⟨hdr, dout, nin, hf⟩ := exists_pointFrame op s hp
    obtain ⟨st, rx, hs⟩ := atPoint_frame hf
    right
    rcases hs.recorded with ⟨-, -, tr⟩ | ⟨sent, e, -, -, tr⟩
    · exact ⟨hdr, dout, nin, _, hf, tr, fun _ => rfl⟩
    · exact ⟨hdr, dout, nin, _, hf, tr, nofun⟩

/-! ### A page-program stays in its page (R64, R201) -/

/-- Inside a chunk `SEQ.N` counts bytes that are left, at least one, and all in the page of `SEQ.A` (R200, R201). -/
theorem WriteCursor.chunk_bounds {s : State} {pt : Point} {addr size : Word} (h : WriteCursor s pt addr size)
    (hp : inChunk pt = true) : 1 ≤ s.seq.ctx.n.toNat ∧ s.seq.ctx.n.toNat ≤ s.seq.ctx.rem.toNat ∧
      s.seq.ctx.a.toNat % pageSize + s.seq.ctx.n.toNat ≤ pageSize := by
  obtain ⟨hrem, hn⟩ := h.chunk hp
  have hne : s.seq.ctx.rem ≠ 0 := fun h0 => by rw [h0] at hrem; exact absurd hrem (by decide)
  obtain ⟨h1, -, h3, h4⟩ := chunkLength_bounds (a := s.seq.ctx.a) hne
  rw [hn]
  exact ⟨h1, h3, h4⟩

/-- The data of a chunk are in the host's buffer (R26). -/
theorem WriteCursor.slice_length {s : State} {pt : Point} {addr size : Word} (h : WriteCursor s pt addr size)
    (hp : inChunk pt = true) : (slice s.host.inp s.seq.ctx.off.toNat s.seq.ctx.n.toNat).length = s.seq.ctx.n.toNat := by
  have h1 := h.chunk_bounds hp
  have h2 := h.total
  have h3 := h.buffer
  exact Machine.slice_length (by omega)

/-- The address of a header names the place in its page that the cursor names (R97). -/
theorem join24_of_addr24 {a : Word} {x y z : Byte} {rest tl : List Byte} (h : addr24 a ++ tl = x :: y :: z :: rest) :
    join24 x y z = maskAddr a ∧ tl = rest := by
  simp only [addr24, bytes24, List.cons_append, List.nil_append, List.cons.injEq] at h
  obtain ⟨rfl, rfl, rfl, h⟩ := h
  exact ⟨join24_bytes _, h⟩

theorem maskAddr_page (a : Word) : (maskAddr a).toNat % pageSize = a.toNat % pageSize := by
  simp only [maskAddr, BitVec.toNat_setWidth]
  exact Nat.mod_mod_of_dvd _ (by decide)

/-- The frame a step records, when it was sent whole, is no page-program that leaves its page. -/
theorem pointFrame_inPage {op : Op} {pt : Point} {s : State} {hdr dout : List Byte} {nin : Nat} {r : FrameRec}
    (hv : validParams s.cfg = true) (hc : CursorOk s { op := op, pt := pt })
    (h : pointFrame op pt s = some (hdr, dout, nin)) (hr : r.err = none → r.tx = hdr ++ dout) :
    programInPage s.cfg.ops r := by
  intro herr x y z data htx
  rw [hr herr] at htx
  have hh : hdr.head? = some s.cfg.ops.pp := by
    obtain ⟨c, hc, -⟩ := pointFrame_opcode h
    obtain ⟨tl, rfl⟩ := List.head?_eq_some_iff.mp hc
    rw [hc, (List.cons.inj htx).1]
  obtain ⟨rfl, ad, addr, size, rfl⟩ := write_of_program_opcode hv h hh
  obtain ⟨rfl, rfl, -⟩ : s.cfg.ops.pp :: addr24 s.seq.ctx.a = hdr ∧
      slice s.host.inp s.seq.ctx.off.toNat s.seq.ctx.n.toNat = dout ∧ 0 = nin := by
    simpa only [pointFrame, latchCommand, Option.some.injEq, Prod.mk.injEq] using h
  obtain ⟨hjoin, rfl⟩ := join24_of_addr24 (List.cons.inj htx).2
  have hcur : WriteCursor s .command addr size := hc
  obtain ⟨hpos, -, hpage⟩ := hcur.chunk_bounds rfl
  rw [hjoin, maskAddr_page, hcur.slice_length rfl]
  exact ⟨hpos, hpage⟩

/-- A step of an operation with a sound cursor keeps every page-program of the trace in its page. -/
theorem resumeOp_programsInPage {op : Op} {pt : Point} {s : State} (hv : validParams s.cfg = true)
    (hc : CursorOk s { op := op, pt := pt }) (h : ∀ r ∈ s.trace, programInPage s.cfg.ops r) :
    ∀ r ∈ (resumeOp { op := op, pt := pt } s).trace, programInPage s.cfg.ops r := by
  intro r hr
  rw [resumeOp, settle_trace] at hr
  dsimp only at hr
  rcases atPoint_trace_cases op pt s with e | ⟨hdr, dout, nin, q, hf, e, hq⟩ <;> rw [e] at hr
  · exact h r hr
  · rcases List.mem_append.mp hr with hr | hr
    · exact h r hr
    · obtain rfl := List.mem_singleton.mp hr
      exact pointFrame_inPage hv hc hf hq

/-- Settles O49: the cursor of the invariant bounds each chunk, and a request begins with a sound cursor. -/
theorem programFramesStayInPage : Obligations.ProgramFramesStayInPage := by
  refine ⟨fun s t i hf h => ?_, fun s t task hi ho h => ?_⟩
  · obtain ⟨⟨-, -, hv⟩, op, hop, rfl⟩ := exec_of_request hf h
    rcases startOp_cases op (s.lend (inputBuffer i s)) with ⟨ha, e⟩ | ⟨-, e⟩ <;> rw [e]
    · refine resumeOp_programsInPage hv (begin_cursorOk (paramFacts hv) ha fun ad addr size hw => ?_) nofun
      subst hw
      exact requestOp_write_buffer hop
    · exact nofun
  · rw [step_of_op ho] at h
    injection h with h
    subst h
    exact resumeOp_programsInPage hi.params (hi.op task ho).2

end Sys2Proof.Machine
end

section
/-! PROOFS. The page-program frames of a write tile its range, one per page touched (20_memory R76, 42_seq_operations
R201): a tiling up to the cursor is kept by every step, and is whole when the write returns `Ok`. -/

namespace Sys2Proof.Machine

/-! ### Tilings (R76, R201) -/

/-- A tiling of bytes that end at a page boundary is continued by one more piece inside the next page. -/
theorem Tiles.append {op : Byte} {more : List Byte} (hpos : 1 ≤ more.length) :
    ∀ {fs : List (List Byte)} {a : Word} {data : List Byte}, Tiles op a data fs →
      (data = [] ∨ (a.toNat + data.length) % pageSize = 0) →
      (a + BitVec.ofNat 32 data.length).toNat % pageSize + more.length ≤ pageSize →
      Tiles op a (data ++ more) (fs ++ [op :: (addr24 (a + BitVec.ofNat 32 data.length) ++ more)])
  | [], a, data, h, _, hpage => by
    obtain rfl : data = [] := h
    simp only [List.length_nil, BitVec.add_zero] at hpage ⊢
    exact ⟨more.length, hpos, by simp only [List.nil_append]; omega, by simp, by simp [Tiles]⟩
  | f :: fs, a, data, ⟨n, hn, hmin, hf, hrest⟩, hend, hpage => by
    have hlen : n ≤ data.length := by omega
    have hend' : (a.toNat + data.length) % pageSize = 0 := by
      refine hend.resolve_left ?_
      rintro rfl
      rw [List.length_nil] at hlen; omega
    have hsum : a + BitVec.ofNat 32 n + BitVec.ofNat 32 (data.drop n).length = a + BitVec.ofNat 32 data.length := by
      rw [BitVec.add_assoc, ← BitVec.ofNat_add, List.length_drop, Nat.add_sub_cancel' hlen]
    have ih := Tiles.append hpos hrest (.inr ?_) (by rw [hsum]; exact hpage)
    · rw [hsum] at ih
      refine ⟨n, hn, ?_, ?_, ?_⟩
      · rw [List.length_append]
        simp only [pageSize] at hmin hend' ⊢
        omega
      · rw [hf, List.take_append_of_le_length hlen]
      · rw [List.drop_append_of_le_length hlen]
        exact ih
    · rw [List.length_drop, BitVec.toNat_add, BitVec.toNat_ofNat]
      simp only [pageSize] at hend' ⊢
      omega

/-- The pieces of a tiling are as many as the pages its bytes touch (R76). -/
theorem Tiles.length_eq {op : Byte} :
    ∀ {fs : List (List Byte)} {a : Word} {data : List Byte}, Tiles op a data fs → 1 ≤ data.length →
      fs.length = (a.toNat % 256 + data.length + 255) / 256
  | [], _, data, h, hpos => by
    obtain rfl : data = [] := h
    exact absurd hpos (by decide)
  | f :: fs, a, data, ⟨n, hn, hmin, _, hrest⟩, _ => by
    rw [List.length_cons]
    simp only [pageSize] at hmin
    by_cases hlast : data.length = n
    · obtain rfl : fs = [] := by
        rw [List.drop_of_length_le hlast.le] at hrest
        cases fs with
        | nil => rfl
        | cons g gs => obtain ⟨m, h1, h2, -⟩ := hrest; rw [List.length_nil, Nat.zero_min] at h2; omega
      simp only [List.length_nil]
      omega
    · have hnext : (a + BitVec.ofNat 32 n).toNat % 256 = 0 := by
        rw [BitVec.toNat_add, BitVec.toNat_ofNat]; omega
      have ih := Tiles.length_eq hrest (by rw [List.length_drop]; omega)
      rw [hnext, List.length_drop] at ih
      omega

/-! ### The page-programs of a write tile what it has sent (R76, R201) -/

/-- How many bytes of its buffer a write has sent at a point: those before its cursor, and the current chunk once its
page-program is out. -/
def bytesSent (s : State) (pt : Point) : Nat :=
  s.seq.ctx.off.toNat + if chunkSent pt then s.seq.ctx.n.toNat else 0

/-- The page-program frames of the trace tile the first `k` bytes of the host's buffer at `addr`. -/
def TiledTo (addr : Word) (k : Nat) (s : State) : Prop :=
  Tiles s.cfg.ops.pp addr (s.host.inp.take k) (programFrames s.cfg.ops s)

/-- A step at another point than the command adds no page-program. -/
theorem atPoint_programFrames {op : Op} {pt : Point} {s : State} (hv : validParams s.cfg = true) (hp : pt ≠ .command) :
    programFrames s.cfg.ops (atPoint op pt s).2 = programFrames s.cfg.ops s := by
  cases hq : sendsNothing pt with
  | true => simp only [programFrames, sentFrames, (atPoint_quiet hq).1]
  | false =>
    obtain ⟨hdr, dout, nin, hf⟩ := exists_pointFrame op s hq
    obtain ⟨c, hc, -⟩ := pointFrame_opcode hf
    obtain ⟨st, rx, hs⟩ := atPoint_frame hf
    have hcfg := (atPoint_rests op pt s).cfg
    rw [← programFrames_other hs.recorded hcfg hc ?_, hcfg]
    intro hpp
    exact hp (write_of_program_opcode hv hf (hc.trans (congrArg some hpp))).1

/-- The command of a write goes on only when its page-program was sent whole, to the completion wait. -/
theorem writeCommand_goto {ad : Bool} {addr size : Word} {s : State} {pt : Point}
    (h : (atPoint (.write ad addr size) .command s).1 = .goto pt) :
    pt = .sample ∧ programFrames s.cfg.ops (atPoint (.write ad addr size) .command s).2 =
      programFrames s.cfg.ops s ++
        [s.cfg.ops.pp :: (addr24 s.seq.ctx.a ++ slice s.host.inp s.seq.ctx.off.toNat s.seq.ctx.n.toNat)] := by
  have hx := goto_mem_exits h
  obtain ⟨st, rx, hs⟩ := atPoint_frame (op := .write ad addr size) (pt := .command) (s := s) rfl
  have hcfg := (atPoint_rests (.write ad addr size) .command s).cfg
  refine ⟨by simpa [exits, afterCommand] using hx, ?_⟩
  rcases hs.recorded with ⟨len, -, tr⟩ | ⟨sent, e, -, hst, -⟩
  · have hpp := programFrames_program (.ok len rfl tr) hcfg
    rw [hcfg] at hpp
    exact hpp
  · rw [hs.failed e hst] at h
    cases h

/-- A step of a write that goes on, its command and its poll apart, stays on its side of the page-program. -/
theorem chunkSent_next {p : Params} {ad : Bool} {addr size : Word} {pt pt' : Point}
    (h : ownPoint p (.write ad addr size) pt = true) (hx : Exit.goto pt' ∈ exits p (.write ad addr size) pt)
    (hp : pt ≠ .poll) (hc : pt ≠ .command) : chunkSent pt' = chunkSent pt := by
  cases pt
  case enable | latch | sample | test | wait =>
    simp only [exits, afterEnable, loopHead, List.mem_cons, List.not_mem_nil, or_false, Exit.goto.injEq,
      reduceCtorEq] at hx
    rw [hx]; rfl
  case disable | cleared =>
    simp only [exits, afterDisable, toCleared, afterCleared, List.mem_cons, List.not_mem_nil, or_false, reduceCtorEq]
      at hx
    split_ifs at hx <;> cases hx <;> rfl
  case readBack => simp [exits] at hx
  case poll => exact absurd rfl hp
  case command => exact absurd rfl hc
  all_goals cases h

theorem chunkSent_notYet (bound : Nat) : chunkSent (notYet bound) = true := by
  unfold notYet; split_ifs <;> rfl

theorem chunkSent_chunkPoint (rem : Word) : chunkSent (chunkPoint rem) = false := by
  unfold chunkPoint; split_ifs <;> rfl

theorem chunkSent_of_outside {pt : Point} (h : inChunk pt = false) : chunkSent pt = false := by
  revert h; cases pt <;> decide

@[simp] theorem chunkHead_off (c : Context) : (chunkHead c).off = c.off := by
  unfold chunkHead; split_ifs <;> rfl

section
variable {s : State} {pt pt' : Point} {ad : Bool} {addr size : Word}

/-- A step that goes on, other than the command, has sent no byte more; where the cursor moves on it counts the chunk. -/
theorem bytesSent_step (ho : ownPoint s.cfg (.write ad addr size) pt = true) (hc : WriteCursor s pt addr size)
    (hp : pt ≠ .command) (hx : (atPoint (.write ad addr size) pt s).1 = .goto pt') :
    bytesSent (atPoint (.write ad addr size) pt s).2 pt' = bytesSent s pt := by
  have he := goto_mem_exits hx
  unfold bytesSent
  by_cases hpoll : pt = .poll
  · subst hpoll
    obtain ⟨b, ⟨rfl, hctx⟩ | ⟨rfl, hctx⟩⟩ := writePoll_goto hx <;> rw [hctx]
    · rw [chunkSent_notYet]; rfl
    · obtain ⟨-, hn, -⟩ := hc.chunk_bounds rfl
      have htotal := hc.total
      have hsize := size.isLt
      rw [chunkSent_chunkPoint, chunkHead_off]
      simp only [BitVec.toNat_add, BitVec.toNat_ofNat, chunkSent, if_true, Bool.false_eq_true, if_false]
      omega
  · have hq : pt ≠ .readBack ∧ pt ≠ .slice ∧ pt ≠ .transfer := by
      refine ⟨?_, ?_, ?_⟩ <;> rintro rfl
      · simp [exits] at he
      · cases ho
      · cases ho
    obtain ⟨b, t0, hctx, -⟩ := atPoint_ctx (op := .write ad addr size) hq (fun h => absurd h hpoll) s
    rw [hctx, chunkSent_next ho he hpoll hp]

/-- The page-program of a chunk continues the tiling: it begins where the bytes sent end, which is a page boundary for
every chunk but the first (R201). -/
theorem tiledTo_command (hc : WriteCursor s .command addr size) (ht : TiledTo addr (bytesSent s .command) s)
    (hx : (atPoint (.write ad addr size) .command s).1 = .goto pt') :
    TiledTo addr (bytesSent (atPoint (.write ad addr size) .command s).2 pt')
      (atPoint (.write ad addr size) .command s).2 := by
  obtain ⟨rfl, hfs⟩ := writeCommand_goto hx
  have hr := atPoint_rests (.write ad addr size) .command s
  obtain ⟨b, t0, hctx, -⟩ := atPoint_ctx (op := .write ad addr size) (pt := .command) (by decide) nofun s
  obtain ⟨hpos, hn, hpage⟩ := hc.chunk_bounds rfl
  have htotal := hc.total
  have hbuf := hc.buffer
  have haddr := hc.addr
  have hslice := hc.slice_length rfl
  have hoff : bytesSent s .command = s.seq.ctx.off.toNat := rfl
  have hlen : (s.host.inp.take s.seq.ctx.off.toNat).length = s.seq.ctx.off.toNat := by
    rw [List.length_take]; omega
  have hcur : addr + BitVec.ofNat 32 s.seq.ctx.off.toNat = s.seq.ctx.a := by
    rw [haddr, BitVec.ofNat_toNat, BitVec.setWidth_eq]
  unfold TiledTo bytesSent
  rw [hr.cfg, hr.inp, hctx, hfs]
  simp only [chunkSent, if_true]
  rw [List.take_add]
  rw [hoff] at ht
  have happ := Tiles.append (more := slice s.host.inp s.seq.ctx.off.toNat s.seq.ctx.n.toNat) (by omega) ht ?_ ?_
  · rw [hlen, hcur] at happ
    exact happ
  · rw [hlen]
    rcases hc.page rfl with h0 | h0
    · left; rw [h0]; rfl
    · right
      rw [haddr, BitVec.toNat_add] at h0
      simp only [pageSize] at h0 ⊢
      omega
  · rw [hlen, hcur, hslice]
    exact hpage

/-- A step of a write that goes on keeps the tiling of what it has sent. -/
theorem tiledTo_step (hv : validParams s.cfg = true) (ho : ownPoint s.cfg (.write ad addr size) pt = true)
    (hc : WriteCursor s pt addr size) (ht : TiledTo addr (bytesSent s pt) s)
    (hx : (atPoint (.write ad addr size) pt s).1 = .goto pt') :
    TiledTo addr (bytesSent (atPoint (.write ad addr size) pt s).2 pt') (atPoint (.write ad addr size) pt s).2 := by
  by_cases hp : pt = .command
  · subst hp
    exact tiledTo_command hc ht hx
  · have hr := atPoint_rests (.write ad addr size) pt s
    rw [bytesSent_step ho hc hp hx]
    unfold TiledTo
    rw [hr.cfg, hr.inp, atPoint_programFrames hv hp]
    exact ht

/-- A write returns `Ok` only after its last chunk (R200). -/
theorem inChunk_of_ret_ok {p : Params} (hx : Exit.ret .ok ∈ exits p (.write ad addr size) pt) : inChunk pt = false := by
  cases hin : inChunk pt with
  | false => rfl
  | true =>
    cases pt <;> simp only [inChunk, reduceCtorEq] at hin <;> simp [exits, afterEnable, afterCommand, loopHead] at hx

/-- A step at which a write returns `Ok` has all its bytes sent, and adds no page-program. -/
theorem tiledTo_return (hv : validParams s.cfg = true) (hc : WriteCursor s pt addr size)
    (ht : TiledTo addr (bytesSent s pt) s) (hx : (atPoint (.write ad addr size) pt s).1 = .ret .ok) :
    TiledTo addr size.toNat (atPoint (.write ad addr size) pt s).2 := by
  have hout : inChunk pt = false := by
    refine inChunk_of_ret_ok (p := s.cfg) (ad := ad) (addr := addr) (size := size) ?_
    rcases atPoint_exit (.write ad addr size) pt s with h | ⟨-, e, h⟩ <;> rw [hx] at h
    · exact h
    · cases h
  have hall : bytesSent s pt = size.toNat := by
    have htotal := hc.total
    rw [hc.rest hout] at htotal
    rw [bytesSent, chunkSent_of_outside hout]
    exact htotal
  have hr := atPoint_rests (.write ad addr size) pt s
  rw [hall] at ht
  unfold TiledTo
  rw [hr.cfg, hr.inp, atPoint_programFrames hv (by rintro rfl; cases hout)]
  exact ht

/-- Every step of a write keeps the tiling. -/
theorem resumeOp_tiled (hv : validParams s.cfg = true) (ho : ownPoint s.cfg (.write ad addr size) pt = true)
    (hc : WriteCursor s pt addr size) (ht : TiledTo addr (bytesSent s pt) s) :
    Tiled addr size.toNat (resumeOp { op := .write ad addr size, pt := pt } s) := by
  unfold resumeOp
  rcases settle_cases (.write ad addr size) (atPoint (.write ad addr size) pt s) with ⟨st, hx, e⟩ | ⟨pt', hx, e⟩ <;>
    dsimp only <;> rw [e]
  · refine ⟨fun _ hst => ?_, nofun⟩
    obtain rfl : st = .ok := hst
    have htiles := tiledTo_return hv hc ht hx
    refine ⟨htiles, fun hpos => ?_⟩
    have hlen : ((atPoint (.write ad addr size) pt s).2.host.inp.take size.toNat).length = size.toNat := by
      have hbuf := hc.buffer
      rw [(atPoint_rests ..).inp, List.length_take]; omega
    have hcount := htiles.length_eq (by rw [hlen]; exact hpos)
    rw [hlen] at hcount
    exact hcount
  · refine ⟨nofun, fun task htask => ?_⟩
    obtain rfl : ({ op := .write ad addr size, pt := pt' } : Task) = task := Option.some.inj htask
    exact tiledTo_step hv ho hc ht hx

end

/-- A write as opened has sent nothing, and its trace is empty (R200). -/
theorem tiledTo_opening {s : State} {c : Context} {addr size : Word} (ht : s.trace = [])
    (hc : s.seq.ctx = chunkHead { c with a := addr, off := 0, rem := size }) :
    TiledTo addr (bytesSent s (chunkPoint size)) s := by
  have hnone : bytesSent s (chunkPoint size) = 0 := by
    rw [bytesSent, hc, chunkHead_off, chunkSent_chunkPoint]; rfl
  simp [TiledTo, hnone, programFrames, sentFrames, ht, Tiles]

/-- A write as accepted: nothing is sent before its first step, which keeps the tiling (R164, R200). -/
theorem startOp_tiled {s : State} {ad : Bool} {addr size : Word} (hv : validParams s.cfg = true)
    (hb : size.toNat ≤ s.host.inp.length) : Tiled addr size.toNat (startOp (.write ad addr size) s) :=
  resumeOp_tiled hv (ownPoint_opening s.cfg (.write ad addr size))
    (WriteCursor.opening (c := s.seq.ctx) hb rfl) (tiledTo_opening (c := s.seq.ctx) rfl rfl)

theorem resumeOp_inp (task : Task) (s : State) : (resumeOp task s).host.inp = s.host.inp :=
  (settle_inp ..).trans (atPoint_rests ..).inp

/-- A request that writes starts the write of its operands, with its buffer on the host's port (R200, R232). -/
theorem requestOp_of_writeOperands {i : Instr} {s : State} {ad : Bool} {addr : Word} {n : Nat} {buf : List Byte}
    (h : writeOperands s.cfg i = some (ad, addr, n, buf)) :
    isFrame i = false ∧ ∃ size : Word, requestOp s.cfg i = some (.write ad addr size) ∧ size.toNat = n ∧
      inputBuffer i s = buf := by
  cases i <;> simp only [writeOperands, reduceCtorEq] at h
  case reqWrite a size b =>
    split_ifs at h with hb
    simp only [Option.some.injEq, Prod.mk.injEq] at h
    obtain ⟨rfl, rfl, rfl, rfl⟩ := h
    exact ⟨rfl, size, if_neg (Nat.not_lt.mpr hb), rfl, rfl⟩
  case reqBlockWrite a words b =>
    split_ifs at h with hb
    obtain ⟨hfit, hb⟩ := hb
    simp only [Option.some.injEq, Prod.mk.injEq] at h
    obtain ⟨rfl, rfl, rfl, rfl⟩ := h
    exact ⟨rfl, BitVec.ofNat 32 (wordBytes s.cfg words), (if_pos (decide_eq_true hfit)).trans (if_neg (Nat.not_lt.mpr hb)),
      Nat.mod_eq_of_lt hfit, rfl⟩

/-- Settles O48: the first step of a write and each later one keep the tiling up to what has been sent. -/
theorem writeRequestsTileTheRange : Obligations.WriteRequestsTileTheRange := by
  refine ⟨fun s t i ad addr n buf hw h => ?_, fun s t ad addr size pt hi ho ht h => ?_⟩
  · obtain ⟨hf, size, hop, rfl, hin⟩ := requestOp_of_writeOperands hw
    obtain ⟨⟨-, -, hv⟩, op, hop', rfl⟩ := exec_of_request hf h
    obtain rfl := Option.some.inj (hop.symm.trans hop')
    exact ⟨startOp_tiled (s := s.lend (inputBuffer i s)) hv (requestOp_write_buffer hop), (resumeOp_inp ..).trans hin⟩
  · obtain ⟨hown, hcur⟩ := hi.op _ ho
    rw [step_of_op ho] at h
    injection h with h
    subst h
    exact ⟨resumeOp_tiled hi.params hown hcur (ht.part _ ho), resumeOp_inp ..⟩

end Sys2Proof.Machine
end

section
/-! PROOFS. Two guards of the requests: a misaligned sector request sends nothing (20_memory R65, 42_seq_operations R204,
R205), and a busy-poll that is left without a failure is a barrier (20_memory R71, 41_seq_primitives R174). -/

namespace Sys2Proof.Machine

/-! ### Misaligned sector requests (R65, R255) -/

/-- A request that names a sector starts an operation that tests the alignment of its address (R204, R205, R233). -/
theorem requestOp_of_sectorOperands {p : Params} {i : Instr} {ad : Bool} {addr : Word}
    (h : eraseOperands p i = some (ad, addr) ∨ verifyOperands p i = some (ad, addr)) :
    ∃ op, requestOp p i = some op ∧ rightlyAligned p op = sectorAligned p addr ∧ op.adapter = ad := by
  have fits : ∀ {block : Word} {op : Op}, block.toNat * p.wordsPerBlock * p.wordSize < 2 ^ 32 →
      (if fitsWord (blockByteAddr p block) then some op else none) = some op := fun h => if_pos (decide_eq_true h)
  rcases h with h | h
  · cases i <;> simp only [eraseOperands, reduceCtorEq, Option.some.injEq, Prod.mk.injEq] at h
    case reqEraseSector => obtain ⟨rfl, rfl⟩ := h; exact ⟨_, rfl, rfl, rfl⟩
    case reqBlockErase =>
      split_ifs at h with hb
      simp only [Option.some.injEq, Prod.mk.injEq] at h
      obtain ⟨rfl, rfl⟩ := h
      exact ⟨_, fits hb, rfl, rfl⟩
  · cases i <;> simp only [verifyOperands, reduceCtorEq, Option.some.injEq, Prod.mk.injEq] at h
    case reqVerifySectorErased => obtain ⟨rfl, rfl⟩ := h; exact ⟨_, rfl, rfl, rfl⟩
    case reqBlockEraseVerify =>
      split_ifs at h with hb
      simp only [Option.some.injEq, Prod.mk.injEq] at h
      obtain ⟨rfl, rfl⟩ := h
      exact ⟨_, fits hb, rfl, rfl⟩

/-- A misaligned request returns in its acceptance, without any step (R204, R205, R263). -/
theorem requestGivesAtOnce_of_misaligned {i : Instr} {s : State} {op : Op} (hr : Ready s) (hsel : s.seq.sel = false)
    (ho : requestOp s.cfg i = some op) (ha : rightlyAligned s.cfg op = false) :
    RequestGivesAtOnce i s .alignmentError [] [] (codeOf op.adapter .alignmentError) s.dev := by
  refine ⟨_, exec_of_op hr ho, ?_⟩
  rcases startOp_cases op (s.lend (inputBuffer i s)) with ⟨h, -⟩ | ⟨-, e⟩
  · rw [State.lend_cfg, ha] at h; cases h
  · rw [e]
    exact ⟨⟨rfl, rfl, hsel, rfl⟩, rfl, rfl, rfl, rfl, rfl, rfl, rfl, rfl, rfl⟩

/-- Settles O42: the alignment test fails before anything else is done. -/
theorem misalignedSectorRequestsSendNothing : Obligations.MisalignedSectorRequestsSendNothing := by
  intro s i ad addr h hr hsel hmis
  obtain ⟨op, ho, hal, rfl⟩ := requestOp_of_sectorOperands h
  exact requestGivesAtOnce_of_misaligned hr hsel ho (hal.trans (decide_eq_false hmis))

/-! ### The busy-poll (R71, R174) -/

theorem devAtFrame_devOk {p : Params} {s : State} (h : DevOk p s.dev) : DevOk p (devAtFrame s) := by
  unfold devAtFrame
  split_ifs
  · exact engineComplete_devOk h
  · exact h

@[simp] theorem devAtFrame_dpd (s : State) : (devAtFrame s).dpd = s.dev.dpd := by
  unfold devAtFrame
  split_ifs
  · exact engineComplete_dpd _
  · rfl

/-- A sound device that is not busy has nothing in flight (R32). -/
theorem DevOk.pend_of_ready {p : Params} {d : Dev} (h : DevOk p d) (hb : d.busy = false) : d.pend = .none := by
  by_contra hp
  rw [h.busy_iff.mpr hp] at hb
  cases hb

theorem notYet_cases (bound : Nat) : notYet bound = .wait ∨ notYet bound = .test := by
  unfold notYet
  split_ifs
  · exact .inl rfl
  · exact .inr rfl

theorem whenReady_dev (op : Op) (s : State) : (whenReady op s).2.dev = s.dev := by cases op <;> rfl

/-- A step that leads to a point leaves the operation standing there. -/
theorem resumeOp_op_of_goto {op : Op} {pt pt' : Point} {s : State} (h : (atPoint op pt s).1 = .goto pt') :
    (resumeOp { op := op, pt := pt } s).seq.op = some { op := op, pt := pt' } := by
  unfold resumeOp settle
  dsimp only
  rw [h]
  rfl

/-- A poll that leaves its loop has read BUSY = 0 (R174). -/
theorem poll_left_ready {s : State} {op : Op} (hv : validParams s.cfg = true) (hb : BusOk s) (hd : s.dev.dpd = false)
    (hx : (atPoint op .poll s).1 ≠ .goto (notYet (waitBound s.cfg op))) :
    (devAtFrame s).busy = false ∧ (atPoint op .poll s).2.dev = { devAtFrame s with arm := false } := by
  obtain ⟨t, b, e, -, hran⟩ := poll_awake hv hb ((devAtFrame_dpd s).trans hd) op
  rw [e] at hx ⊢
  split_ifs at hx ⊢ with hbusy
  · exact absurd rfl hx
  · exact ⟨eq_false_of_ne_true hbusy, (whenReady_dev op t).trans hran.dev⟩

/-- `busyPoll` of a listening device returns `Ok` after its first poll (R174). -/
theorem Reaches.busyPoll_listening {t : State} (hv : validParams t.cfg = true) (hb : BusOk t) (hl : Listening t.dev)
    (timeoutMs : Word) : ∃ u, Reaches { op := .busyPoll timeoutMs, pt := .sample } t (.ret .ok) u
      { t.dev with arm := false } [[t.cfg.ops.rdsr]] := by
  obtain ⟨v, -, -, hran, hreach⟩ := Reaches.ready (op := .busyPoll timeoutMs) hv hb (hl.at_frame.symm ▸ hl) rfl
  rw [hl.at_frame] at hreach
  exact ⟨v, hreach _ v rfl (Ran.refl hran.bus)⟩

/-- Settles O60: the poll of a ready device is left at once, and any poll that is left has read BUSY = 0 from a sound
device. -/
theorem busyPollIsABarrier : Obligations.BusyPollIsABarrier := by
  refine ⟨fun s timeoutMs hr hb hl => ?_, fun s t op hv hb hok hd ho h hleft => ?_⟩
  · obtain ⟨u, h⟩ := Reaches.busyPoll_listening
      (t := (s.lend s.host.inp).begin { op := .busyPoll timeoutMs, pt := .sample } s.seq.ctx) hr.2.2 hb hl timeoutMs
    exact requestGives_of_reaches (op := .busyPoll timeoutMs) hr rfl rfl (.inr (List.cons_ne_nil _ _)) h
  · rw [step_of_op ho] at h
    injection h with h
    subst h
    have hx : (atPoint op .poll s).1 ≠ .goto (notYet (waitBound s.cfg op)) := fun hx => by
      have hop := resumeOp_op_of_goto hx
      rcases hleft with ⟨hnone, -⟩ | ⟨pt, hpt, hwait, htest⟩
      · rw [hop] at hnone; cases hnone
      · rw [hop] at hpt
        obtain rfl : notYet (waitBound s.cfg op) = pt := (Task.mk.inj (Option.some.inj hpt)).2
        exact (notYet_cases _).elim hwait htest
    obtain ⟨hready, hdev⟩ := poll_left_ready hv hb hd hx
    rw [resumeOp, settle_dev, hdev]
    exact ⟨(devAtFrame_devOk hok).pend_of_ready hready, hready⟩

end Sys2Proof.Machine
end

section
/-! PROOFS. Frames put on the bus directly: a read has no side effect (20_memory R68, 40_device_commands R145), and a
page-program or sector-erase outside its page or sector is refused or ignored (R64, R134, R135). -/

namespace Sys2Proof.Machine

/-! ### Read commands (R68, R145) -/

theorem isFrame_of_isReadCommand {i : Instr} (h : isReadCommand i = true) : isFrame i = true := by
  cases i <;> simp only [isReadCommand, Bool.false_eq_true] at h <;> rfl

theorem isRsten_of_isReadCommand {i : Instr} (h : isReadCommand i = true) : isRsten i = false := by
  cases i <;> simp only [isReadCommand, Bool.false_eq_true] at h <;> rfl

theorem wf_of_isReadCommand (p : Params) {i : Instr} (h : isReadCommand i = true) : i.wf p = true := by
  cases i <;> simp only [isReadCommand, Bool.false_eq_true] at h <;> rfl

/-- A read answers, and moves at most the address counter of the device (R44, R145). -/
theorem ownRule_of_isReadCommand (p : Params) (k : Nat) (armed : Bool) {i : Instr} (h : isReadCommand i = true) (d : Dev) :
    ∃ c rx, ownRule p k armed i d = answer { d with ac := c } rx := by
  cases i <;> simp only [isReadCommand, Bool.false_eq_true] at h
  case read => exact ⟨_, _, rfl⟩
  case hsread => exact ⟨_, _, rfl⟩
  case rbpr =>
    simp only [ownRule, devRbpr]
    split_ifs <;> exact ⟨d.ac, _, rfl⟩
  all_goals exact ⟨d.ac, _, rfl⟩

/-- A read-ID of three bytes at most returns the identifier and no free byte (R131). -/
theorem devRdid_rx {n : Nat} (h : n ≤ 3) (k k' : Nat) (d : Dev) : (devRdid k n d).rx = (devRdid k' n d).rx := by
  refine List.map_congr_left fun j hj => ?_
  have hlt : j < (idBytes d.id).length := (List.mem_range.mp hj).trans_le h
  rw [List.getElem?_eq_getElem hlt]
  rfl

/-- What a read returns is fixed by what it reads: the draw, `DEV.ARM` and `DEV.AC` do not matter, the status bits 7:6 and
the free bytes of a read-ID apart (R35, R68, U12). -/
theorem ownRule_rx_repeats (p : Params) (k k' : Nat) (armed armed' : Bool) {i : Instr} (h : isReadCommand i = true)
    (hst : ∀ n, i ≠ .rdsr n) (hid : ∀ n, i = .rdid n → n ≤ 3) (d : Dev) (arm : Bool) (c : Addr24) :
    (ownRule p k armed i d).rx = (ownRule p k' armed' i { d with arm := arm, ac := c }).rx := by
  cases i <;> simp only [isReadCommand, Bool.false_eq_true] at h
  case rdsr n => exact absurd rfl (hst n)
  case rdid n => exact devRdid_rx (hid n rfl) k k' d
  case rbpr => simp only [ownRule, devRbpr]; split_ifs <;> rfl
  all_goals rfl

/-- A read that the device takes is taken to its own rule, and disarms it (R39, R120). -/
theorem devFrame_of_isReadCommand (p : Params) (k : Nat) {i : Instr} {d : Dev} (h : isReadCommand i = true)
    (ha : Accepts d i) : devFrame p k i d = ownRule p k d.arm i { d with arm := false } := by
  rw [devFrame_accepted ha (wf_of_isReadCommand p h), isRsten_of_isReadCommand h]

/-- A read leaves all it reads, so that the device takes it again and returns the same bytes (R68). -/
theorem devFrame_rx_repeats (p : Params) (k k' : Nat) {i : Instr} {d : Dev} (h : isReadCommand i = true)
    (hst : ∀ n, i ≠ .rdsr n) (hid : ∀ n, i = .rdid n → n ≤ 3) (ha : Accepts d i) :
    (devFrame p k' i (devFrame p k i d).dev).rx = (devFrame p k i d).rx := by
  obtain ⟨c, rx, e⟩ := ownRule_of_isReadCommand p k d.arm h { d with arm := false }
  have hdev : (devFrame p k i d).dev = { d with arm := false, ac := c } := by
    rw [devFrame_of_isReadCommand p k h ha, e]; rfl
  have ha' : Accepts { d with arm := false, ac := c } i := ha
  rw [hdev, devFrame_of_isReadCommand p k' h ha', devFrame_of_isReadCommand p k h ha]
  exact (ownRule_rx_repeats p k k' d.arm false h hst hid { d with arm := false } false c).symm

/-- Settles O35: a read is ignored or answers from what it reads, and leaves all it reads as it was. -/
theorem readCommandsHaveNoSideEffect : Obligations.ReadCommandsHaveNoSideEffect := by
  refine ⟨fun s i hi => ?_, fun s t u i hi hst hid ha ht hu => ?_⟩
  · have hf := isFrame_of_isReadCommand hi
    by_cases ha : Accepts s.dev i
    · obtain ⟨c, rx, e⟩ := ownRule_of_isReadCommand s.cfg s.draw s.dev.arm hi { s.dev with arm := false }
      exact ⟨c, rx, frameGives_of_answer hf ((devFrame_of_isReadCommand _ _ hi ha).trans e)⟩
    · have e := devFrame_ignored (p := s.cfg) (k := s.draw) ha
      rw [isRsten_of_isReadCommand hi] at e
      exact ⟨s.dev.ac, _, frameGives_of_answer hf e⟩
  · rw [exec_of_frame (isFrame_of_isReadCommand hi)] at ht hu
    obtain rfl := directFrame_next ht
    refine ⟨_, State.consumed_trace .., ?_⟩
    rw [directFrame_next hu, State.consumed_trace, State.consumed_cfg, State.consumed_dev,
      devFrame_rx_repeats _ _ _ hi hst hid ha]

/-! ### Frames outside their page or sector (R64, U3, U4) -/

/-- A page-program without the latch is ignored, whatever its range (R134, log 27). -/
theorem devPp_unlatched (p : Params) (k : Nat) (a : Addr24) (data : List Byte) {d : Dev} (h : d.wel = false) :
    devPp p k a data d = answer d [] := by
  simp [devPp, h]

/-- A sector-erase without the latch is ignored, whatever its range (R135, log 27). -/
theorem devSe_unlatched (p : Params) (k : Nat) (a : Addr24) {d : Dev} (h : d.wel = false) :
    devSe p k a d = answer d [] := by
  simp [devSe, startErase, h]

/-- A page-program that crosses a page has no meaning where the latch is set (U3, log 13). -/
theorem devPp_crossing {p : Params} (k : Nat) {a : Addr24} {data : List Byte} {d : Dev} (hw : d.wel = true)
    (h : pageSize < deviceAddr p a % pageSize + data.length) : (devPp p k a data d).refusal = some .pageCrossing := by
  simp only [devPp, hw, if_true, if_pos h]

/-- A misaligned sector-erase has no meaning where the latch is set (U4, log 13). -/
theorem devSe_misaligned {p : Params} (k : Nat) {a : Addr24} {d : Dev} (hw : d.wel = true)
    (h : deviceAddr p a % p.sectorSize ≠ 0) : (devSe p k a d).refusal = some .eraseMisaligned := by
  simp only [devSe, hw, Bool.true_and, if_pos (decide_eq_true h)]

/-- A frame to which the device gives no meaning is refused under that name. -/
theorem exec_of_refusal {i : Instr} {s : State} {r : Refusal} (hf : isFrame i = true)
    (h : (devFrame s.cfg s.draw i s.dev).refusal = some r) : exec i s = .refused r := by
  rw [exec_of_frame hf, directFrame]
  simp only [h]

/-- A command that does nothing without the latch is ignored without it, and by a device that is busy or in deep
power-down (R120, R138). -/
theorem frameGives_ignored {i : Instr} {s : State} (hf : isFrame i = true) (hn : received i = 0)
    (hx : isRsten i = false ∧ isRdpd i = false ∧ acceptedBusy i = false)
    (hown : ∀ d : Dev, d.wel = false → ownRule s.cfg s.draw s.dev.arm i d = answer d [])
    (h : s.dev.busy = true ∨ s.dev.dpd = true ∨ s.dev.wel = false) :
    FrameGives i s { s.dev with arm := false } [] := by
  obtain ⟨harm, hrdpd, hbusy⟩ := hx
  refine frameGives_of_answer hf ?_
  rcases devFrame_cases s.cfg s.draw i s.dev with e | ⟨⟨hd, hb⟩, e⟩ <;> rw [e, harm]
  · rw [hn]; rfl
  · have awake : s.dev.dpd = false := hd.resolve_right (by simp [hrdpd])
    have ready : s.dev.busy = false := hb.resolve_right (by simp [hbusy])
    exact hown _ ((h.resolve_left (by simp [ready])).resolve_left (by simp [awake]))

/-- Settles O29: with the latch the device would act and the frame has no meaning, else it is ignored. -/
theorem crossingAndMisalignedFramesAreRefused : Obligations.CrossingAndMisalignedFramesAreRefused := by
  refine fun s a d => ⟨fun hb hd hw => ⟨fun h1 h2 hcross => ?_, fun hmis => ?_⟩, fun h => ⟨fun _ _ => ?_, ?_⟩⟩
  · have hwf : (Instr.pp a d).wf s.cfg = true := by
      rw [Instr.wf, Bool.and_eq_true]
      exact ⟨decide_eq_true h1, decide_eq_true h2⟩
    refine exec_of_refusal rfl ?_
    rw [devFrame_accepted ⟨.inl hd, .inl hb⟩ hwf]
    exact devPp_crossing s.draw hw hcross
  · refine exec_of_refusal rfl ?_
    rw [devFrame_accepted ⟨.inl hd, .inl hb⟩ rfl]
    exact devSe_misaligned s.draw hw hmis
  · exact frameGives_ignored rfl rfl ⟨rfl, rfl, rfl⟩ (fun _ => devPp_unlatched s.cfg s.draw a d) h
  · exact frameGives_ignored rfl rfl ⟨rfl, rfl, rfl⟩ (fun _ => devSe_unlatched s.cfg s.draw a) h

end Sys2Proof.Machine
end

section
/-! PROOFS. The encodings (30_encoding R90 to R100): for each frame format and each shape of a request's operands, exactly
which bodies decode and to what; from these the two round trips of the decoder and the encoder, the examples of the spec,
the header bytes of a cursor, and what the device does with a frame that no instruction has. -/

namespace Sys2Proof

/-! ### What each frame format takes (R91, R92) -/

theorem decodeF0_eq_ok {i j : Instr} {body : List Byte} {nrx : Nat} :
    decodeF0 i body nrx = .ok j ↔ body = [] ∧ nrx = 0 ∧ i = j := by
  cases body with
  | nil => by_cases hn : nrx = 0 <;> simp [decodeF0, hn]
  | cons x xs => simp [decodeF0]

theorem decodeFR_eq_ok {mk : Nat → Instr} {j : Instr} {body : List Byte} {nrx : Nat} :
    decodeFR mk body nrx = .ok j ↔ body = [] ∧ mk nrx = j := by
  cases body <;> simp [decodeFR]

theorem decodeFW_eq_ok {mk : Byte → Byte → Instr} {j : Instr} {body : List Byte} {nrx : Nat} :
    decodeFW mk body nrx = .ok j ↔ ∃ st cf, body = [st, cf] ∧ nrx = 0 ∧ mk st cf = j := by
  constructor
  · intro h
    unfold decodeFW at h
    split at h
    · next st cf =>
      split at h
      · next hn => exact ⟨st, cf, rfl, hn, Except.ok.inj h⟩
      · cases h
    · cases h
  · rintro ⟨st, cf, rfl, rfl, rfl⟩
    rfl

theorem decodeFA_eq_ok {mk : Addr24 → Instr} {j : Instr} {body : List Byte} {nrx : Nat} :
    decodeFA mk body nrx = .ok j ↔ ∃ a, body = bytes24 a ∧ nrx = 0 ∧ mk a = j := by
  constructor
  · intro h
    unfold decodeFA at h
    split at h
    · next x y z =>
      split at h
      · next hn => exact ⟨join24 x y z, (bytes24_join x y z).symm, hn, Except.ok.inj h⟩
      · cases h
    all_goals cases h
  · rintro ⟨a, rfl, rfl, rfl⟩
    simp [decodeFA, bytes24]

theorem decodeFAR_eq_ok {mk : Addr24 → Nat → Instr} {j : Instr} {body : List Byte} {nrx : Nat} :
    decodeFAR mk body nrx = .ok j ↔ ∃ a, body = bytes24 a ∧ mk a nrx = j := by
  constructor
  · intro h
    unfold decodeFAR at h
    split at h
    · next x y z => exact ⟨join24 x y z, (bytes24_join x y z).symm, Except.ok.inj h⟩
    all_goals cases h
  · rintro ⟨a, rfl, rfl⟩
    simp [decodeFAR, bytes24]

theorem decodeFAXR_eq_ok {mk : Addr24 → Byte → Nat → Instr} {j : Instr} {body : List Byte} {nrx : Nat} :
    decodeFAXR mk body nrx = .ok j ↔ ∃ a t, body = bytes24 a ++ [t] ∧ mk a t nrx = j := by
  constructor
  · intro h
    unfold decodeFAXR at h
    split at h
    · next x y z t => exact ⟨join24 x y z, t, by rw [bytes24_join]; rfl, Except.ok.inj h⟩
    all_goals cases h
  · rintro ⟨a, t, rfl, rfl⟩
    simp [decodeFAXR, bytes24]

theorem decodeFAW_eq_ok {mk : Addr24 → List Byte → Instr} {j : Instr} {body : List Byte} {nrx : Nat} :
    decodeFAW mk body nrx = .ok j ↔
      ∃ a d, body = bytes24 a ++ d ∧ nrx = 0 ∧ (1 ≤ d.length ∧ d.length ≤ pageSize) ∧ mk a d = j := by
  constructor
  · intro h
    unfold decodeFAW at h
    split at h
    · next x y z d =>
      split at h
      · next hn =>
        split at h
        · next hd => exact ⟨join24 x y z, d, by rw [bytes24_join]; rfl, hn, hd, Except.ok.inj h⟩
        · cases h
      · cases h
    · cases h
  · rintro ⟨a, d, rfl, rfl, hd, rfl⟩
    simp [decodeFAW, bytes24, hd]

theorem decodeF2XR_eq_ok {mk : Addr16 → Byte → Nat → Instr} {j : Instr} {body : List Byte} {nrx : Nat} :
    decodeF2XR mk body nrx = .ok j ↔ ∃ a t, body = bytes16 a ++ [t] ∧ mk a t nrx = j := by
  constructor
  · intro h
    unfold decodeF2XR at h
    split at h
    · next x y t => exact ⟨join16 x y, t, by rw [bytes16_join]; rfl, Except.ok.inj h⟩
    all_goals cases h
  · rintro ⟨a, t, rfl, rfl⟩
    simp [decodeF2XR, bytes16]

/-! ### What each shape of a request's operands takes (R100, log 17, log 18) -/

theorem decodeReq0_eq_ok {code : Byte} {i j : Instr} {body : List Byte} :
    decodeReq0 code i body = .ok j ↔ body = [] ∧ i = j := by
  cases body <;> simp [decodeReq0]

theorem decodeReq1_eq_ok (code : Byte) {mk : Word → Instr} {j : Instr} {body : List Byte} :
    decodeReq1 code mk body = .ok j ↔ ∃ v, body = bytes32 v ∧ mk v = j := by
  constructor
  · intro h
    unfold decodeReq1 at h
    split at h
    · next a b c d => exact ⟨join32 a b c d, (bytes32_join a b c d).symm, Except.ok.inj h⟩
    · cases h
  · rintro ⟨v, rfl, rfl⟩
    simp [decodeReq1, bytes32]

theorem decodeReq2_eq_ok (code : Byte) {mk : Word → Word → Instr} {j : Instr} {body : List Byte} :
    decodeReq2 code mk body = .ok j ↔ ∃ v w, body = bytes32 v ++ bytes32 w ∧ mk v w = j := by
  constructor
  · intro h
    unfold decodeReq2 at h
    split at h
    · next a b c d e f g k =>
      exact ⟨join32 a b c d, join32 e f g k, by rw [bytes32_join, bytes32_join]; rfl, Except.ok.inj h⟩
    · cases h
  · rintro ⟨v, w, rfl, rfl⟩
    simp [decodeReq2, bytes32]

theorem decodeReqBytes_eq_ok {code : Byte} {mk : Byte → Byte → Instr} {j : Instr} {body : List Byte} :
    decodeReqBytes code mk body = .ok j ↔ ∃ a b, body = [a, b] ∧ mk a b = j := by
  constructor
  · intro h
    unfold decodeReqBytes at h
    split at h
    · next a b => exact ⟨a, b, rfl, Except.ok.inj h⟩
    · cases h
  · rintro ⟨a, b, rfl, rfl⟩
    rfl

theorem decodeReqBuffer_eq_ok (code : Byte) {unit : Nat} {mk : Word → Word → List Byte → Instr} {j : Instr}
    {body : List Byte} :
    decodeReqBuffer code unit mk body = .ok j ↔
      ∃ v w buf, body = bytes32 v ++ bytes32 w ++ buf ∧ w.toNat * unit ≤ buf.length ∧ mk v w buf = j := by
  constructor
  · intro h
    unfold decodeReqBuffer at h
    split at h
    · next a b c d e f g k buf =>
      split at h
      · next hl =>
        exact ⟨join32 a b c d, join32 e f g k, buf, by rw [bytes32_join, bytes32_join]; rfl, hl, Except.ok.inj h⟩
      · cases h
    · cases h
  · rintro ⟨v, w, buf, rfl, hl, rfl⟩
    simp [decodeReqBuffer, bytes32, hl]

/-! ### Encoding after decoding (R90 to R93, R100) -/

/-- A body decodes only to an instruction that puts the command's opcode and that body on the bus. -/
theorem encode_of_decodeBody (p : Params) {c : Cmd} {body : List Byte} {nrx : Nat} {i : Instr}
    (h : decodeBody c body nrx = .ok i) : i.wf p = true ∧ encode p i = .frame (p.ops.byte c :: body) nrx := by
  cases c
  case nop | rsten | rst | wren | wrdi | ce | ulbpr | dpd | rdpd =>
    obtain ⟨rfl, rfl, rfl⟩ := decodeF0_eq_ok.mp h
    exact ⟨rfl, rfl⟩
  case rdsr | rdcr | rdid | rbpr =>
    obtain ⟨rfl, rfl⟩ := decodeFR_eq_ok.mp h
    exact ⟨rfl, rfl⟩
  case wrsr =>
    obtain ⟨st, cf, rfl, rfl, rfl⟩ := decodeFW_eq_ok.mp h
    exact ⟨rfl, rfl⟩
  case se | be =>
    obtain ⟨a, rfl, rfl, rfl⟩ := decodeFA_eq_ok.mp h
    exact ⟨rfl, rfl⟩
  case read =>
    obtain ⟨a, rfl, rfl⟩ := decodeFAR_eq_ok.mp h
    exact ⟨rfl, rfl⟩
  case hsread | sfdp =>
    obtain ⟨a, t, rfl, rfl⟩ := decodeFAXR_eq_ok.mp h
    exact ⟨rfl, rfl⟩
  case pp =>
    obtain ⟨a, d, rfl, rfl, hd, rfl⟩ := decodeFAW_eq_ok.mp h
    exact ⟨by simpa [Instr.wf] using hd, rfl⟩
  case rsid =>
    obtain ⟨a, t, rfl, rfl⟩ := decodeF2XR_eq_ok.mp h
    exact ⟨rfl, rfl⟩

/-- Operands decode only to an instruction that puts the request's code and those operands on its port. -/
theorem encode_of_decodeOperands {p : Params} {r : Req} {body : List Byte} {i : Instr}
    (h : decodeOperands p r body = .ok i) : i.wf p = true ∧ encode p i = .request (r.code :: body) := by
  cases r
  case bringUp | reset | checkId | readStatus | readConfig | writeEnable | writeDisable | unlockAllBlocks =>
    obtain ⟨rfl, rfl⟩ := decodeReq0_eq_ok.mp h
    exact ⟨rfl, rfl⟩
  case verifySectorErased | busyPoll | blockEraseVerify | systemError =>
    obtain ⟨v, rfl, rfl⟩ := (decodeReq1_eq_ok _).mp h
    exact ⟨rfl, rfl⟩
  case read | eraseSector | blockRead | blockErase =>
    obtain ⟨v, w, rfl, rfl⟩ := (decodeReq2_eq_ok _).mp h
    exact ⟨rfl, rfl⟩
  case writeStatus =>
    obtain ⟨a, b, rfl, rfl⟩ := decodeReqBytes_eq_ok.mp h
    exact ⟨rfl, rfl⟩
  case write | blockWrite =>
    obtain ⟨v, w, buf, rfl, hl, rfl⟩ := (decodeReqBuffer_eq_ok _).mp h
    exact ⟨by simpa [Instr.wf] using hl, rfl⟩

/-- A frame that decodes is the opcode of a command and a body that the command takes. -/
theorem opcode_body_of_decodeFrame {o : Opcodes} {tx : List Byte} {nrx : Nat} {i : Instr}
    (h : decodeFrame o tx nrx = .ok i) : ∃ c body, tx = o.byte c :: body ∧ decodeBody c body nrx = .ok i := by
  cases tx with
  | nil => cases h
  | cons b body =>
    cases hc : o.cmdOf b with
    | none => rw [decodeFrame_unknown hc] at h; cases h
    | some c =>
      simp only [decodeFrame, hc] at h
      exact ⟨c, body, by rw [Opcodes.byte_of_cmdOf hc], h⟩

/-- A request that decodes is the code of a request and operands that the request takes. -/
theorem code_operands_of_decodeRequest {p : Params} {bytes : List Byte} {i : Instr} (h : decodeRequest p bytes = .ok i) :
    ∃ r body, bytes = Req.code r :: body ∧ decodeOperands p r body = .ok i := by
  cases bytes with
  | nil => cases h
  | cons b body =>
    cases hr : Req.ofCode b with
    | none => rw [decodeRequest_unknown p hr] at h; cases h
    | some r =>
      obtain rfl := Req.code_of_ofCode hr
      rw [decodeRequest_code] at h
      exact ⟨r, body, rfl, h⟩

/-- Settles O2: the first byte gives the command or the request back, the body its operands. -/
theorem encodeOfDecodeIsIdentity : Obligations.EncodeOfDecodeIsIdentity := by
  intro p w i h
  cases w with
  | frame tx nrx =>
    obtain ⟨c, body, rfl, hb⟩ := opcode_body_of_decodeFrame h
    exact encode_of_decodeBody p hb
  | request bytes =>
    obtain ⟨r, body, rfl, hb⟩ := code_operands_of_decodeRequest h
    exact encode_of_decodeOperands hb

/-! ### Decoding after encoding (R90 to R94, R100) -/

/-- An instruction whose opcode selects its command, and whose body is of that command's format, is decoded. -/
theorem decode_encode_of_body {p : Params} (hd : p.ops.distinct = true) (c : Cmd) {body : List Byte} {nrx : Nat} {i : Instr}
    (he : encode p i = .frame (p.ops.byte c :: body) nrx) (hb : decodeBody c body nrx = .ok i) :
    decode p (encode p i) = .ok i := by
  rw [he, decode, decodeFrame_byte hd, hb]

/-- An instruction whose code selects its request, and whose operands are of that request's shape, is decoded. -/
theorem decode_encode_of_operands {p : Params} (r : Req) {body : List Byte} {i : Instr}
    (he : encode p i = .request (r.code :: body)) (hb : decodeOperands p r body = .ok i) :
    decode p (encode p i) = .ok i := by
  rw [he, decode, decodeRequest_code, hb]

/-- Settles O1: distinct opcodes select the command of each frame, the codes of the requests are distinct, and each body
is one that its format or its operand list takes. -/
theorem decodeOfEncodeIsIdentity : Obligations.DecodeOfEncodeIsIdentity := by
  intro p i hd hwf
  cases i with
  | nop => exact decode_encode_of_body hd .nop rfl rfl
  | rsten => exact decode_encode_of_body hd .rsten rfl rfl
  | rst => exact decode_encode_of_body hd .rst rfl rfl
  | rdsr n => exact decode_encode_of_body hd .rdsr rfl rfl
  | wrsr st cf => exact decode_encode_of_body hd .wrsr rfl rfl
  | rdcr n => exact decode_encode_of_body hd .rdcr rfl rfl
  | read a n => exact decode_encode_of_body hd .read rfl (decodeFAR_eq_ok.mpr ⟨a, rfl, rfl⟩)
  | hsread a x n => exact decode_encode_of_body hd .hsread rfl (decodeFAXR_eq_ok.mpr ⟨a, x, rfl, rfl⟩)
  | wren => exact decode_encode_of_body hd .wren rfl rfl
  | wrdi => exact decode_encode_of_body hd .wrdi rfl rfl
  | se a => exact decode_encode_of_body hd .se rfl (decodeFA_eq_ok.mpr ⟨a, rfl, rfl, rfl⟩)
  | be a => exact decode_encode_of_body hd .be rfl (decodeFA_eq_ok.mpr ⟨a, rfl, rfl, rfl⟩)
  | ce => exact decode_encode_of_body hd .ce rfl rfl
  | pp a d =>
    have hlen : 1 ≤ d.length ∧ d.length ≤ pageSize := by simpa [Instr.wf] using hwf
    exact decode_encode_of_body hd .pp rfl (decodeFAW_eq_ok.mpr ⟨a, d, rfl, rfl, hlen, rfl⟩)
  | rdid n => exact decode_encode_of_body hd .rdid rfl rfl
  | sfdp a x n => exact decode_encode_of_body hd .sfdp rfl (decodeFAXR_eq_ok.mpr ⟨a, x, rfl, rfl⟩)
  | rbpr n => exact decode_encode_of_body hd .rbpr rfl rfl
  | ulbpr => exact decode_encode_of_body hd .ulbpr rfl rfl
  | rsid a x n => exact decode_encode_of_body hd .rsid rfl (decodeF2XR_eq_ok.mpr ⟨a, x, rfl, rfl⟩)
  | dpd => exact decode_encode_of_body hd .dpd rfl rfl
  | rdpd => exact decode_encode_of_body hd .rdpd rfl rfl
  | reqInitialize => exact decode_encode_of_operands .bringUp rfl rfl
  | reqReset => exact decode_encode_of_operands .reset rfl rfl
  | reqRead v w => exact decode_encode_of_operands .read rfl ((decodeReq2_eq_ok 0x02).mpr ⟨v, w, rfl, rfl⟩)
  | reqWrite v w buf =>
    have hlen : w.toNat * 1 ≤ buf.length := by simpa [Instr.wf] using hwf
    exact decode_encode_of_operands .write rfl ((decodeReqBuffer_eq_ok 0x03).mpr ⟨v, w, buf, rfl, hlen, rfl⟩)
  | reqEraseSector v w => exact decode_encode_of_operands .eraseSector rfl ((decodeReq2_eq_ok 0x04).mpr ⟨v, w, rfl, rfl⟩)
  | reqVerifySectorErased v =>
    exact decode_encode_of_operands .verifySectorErased rfl ((decodeReq1_eq_ok 0x05).mpr ⟨v, rfl, rfl⟩)
  | reqBusyPoll v => exact decode_encode_of_operands .busyPoll rfl ((decodeReq1_eq_ok 0x06).mpr ⟨v, rfl, rfl⟩)
  | reqCheckId => exact decode_encode_of_operands .checkId rfl rfl
  | reqReadStatus => exact decode_encode_of_operands .readStatus rfl rfl
  | reqReadConfig => exact decode_encode_of_operands .readConfig rfl rfl
  | reqWriteEnable => exact decode_encode_of_operands .writeEnable rfl rfl
  | reqWriteDisable => exact decode_encode_of_operands .writeDisable rfl rfl
  | reqWriteStatus st cf => exact decode_encode_of_operands .writeStatus rfl rfl
  | reqUnlockAllBlocks => exact decode_encode_of_operands .unlockAllBlocks rfl rfl
  | reqBlockRead v w => exact decode_encode_of_operands .blockRead rfl ((decodeReq2_eq_ok 0x10).mpr ⟨v, w, rfl, rfl⟩)
  | reqBlockWrite v w src =>
    have hlen : w.toNat * p.wordSize ≤ src.length := by simpa [Instr.wf] using hwf
    exact decode_encode_of_operands .blockWrite rfl ((decodeReqBuffer_eq_ok 0x11).mpr ⟨v, w, src, rfl, hlen, rfl⟩)
  | reqBlockErase v w => exact decode_encode_of_operands .blockErase rfl ((decodeReq2_eq_ok 0x12).mpr ⟨v, w, rfl, rfl⟩)
  | reqBlockEraseVerify v =>
    exact decode_encode_of_operands .blockEraseVerify rfl ((decodeReq1_eq_ok 0x13).mpr ⟨v, rfl, rfl⟩)
  | reqSystemError v => exact decode_encode_of_operands .systemError rfl ((decodeReq1_eq_ok 0x14).mpr ⟨v, rfl, rfl⟩)

/-- What an instruction puts on its port with the default opcodes decodes to it. -/
theorem decode_default_of_encode {i : Instr} {w : Wire} (hwf : i.wf Params.default = true)
    (he : encode Params.default i = w) : decode Params.default w = .ok i :=
  he ▸ decodeOfEncodeIsIdentity Params.default i (by decide) hwf

/-- Settles O3: each frame or request is what its instruction puts on its port. -/
theorem specExamplesDecode : Obligations.SpecExamplesDecode := by
  refine ⟨?_, ?_, ?_, ?_, ?_, ?_, ?_, ?_, ?_, ?_⟩ <;> exact decode_default_of_encode (by decide) (by decide)

end Sys2Proof

namespace Sys2Proof.Machine

/-! ### The header bytes of a cursor (R97) -/

/-- Settles O4: a byte of the masked cursor is a byte of the cursor below bit 24, and a move adds to all of it. -/
theorem addressAssemblyIsMaskedBigEndian : Obligations.AddressAssemblyIsMaskedBigEndian := by
  refine ⟨fun a => ?_, by decide, fun n s => rfl⟩
  have := a.isLt
  simp only [addr24, maskAddr, bytes24, List.cons.injEq, and_true]
  refine ⟨?_, ?_, ?_⟩ <;> apply BitVec.eq_of_toNat_eq <;>
    simp only [BitVec.toNat_ofNat, BitVec.toNat_setWidth, BitVec.extractLsb'_toNat, Nat.shiftRight_eq_div_pow] <;> omega

/-! ### Malformed frames (R98, R144) -/

/-- A frame that no instruction has is rejected by the decoder. -/
theorem decode_of_no_encoding {p : Params} {w : Wire} (h : ∀ i : Instr, i.wf p = true → encode p i ≠ w) :
    ∃ e, decode p w = .error e := by
  cases hd : decode p w with
  | error e => exact ⟨e, rfl⟩
  | ok i =>
    obtain ⟨hwf, henc⟩ := encodeOfDecodeIsIdentity p w i hd
    exact absurd henc (h i hwf)

/-- A frame that does not decode is put on the bus as a malformed one, whatever is wrong with it. -/
theorem step_of_malformed {s : State} {tx : List Byte} {nrx : Nat} {later : List Item} {e : DecodeError}
    (ho : s.seq.op = none) (hi : s.inbox = .wire (.frame tx nrx) :: later) (hd : decode s.cfg (.frame tx nrx) = .error e) :
    step s = .next (malformedFrame tx nrx { s with inbox := later }) := by
  have hf : fetchItem (.wire (.frame tx nrx)) { s with inbox := later } =
      .done (.next (malformedFrame tx nrx { s with inbox := later })) := by
    simp only [fetchItem, hd, rejected]
  rw [step_of_item ho hi, hf]

/-- Settles O5: by the round trip such a frame does not decode, and the device ignores it but for `DEV.ARM`. -/
theorem malformedFrameIsIgnored : Obligations.MalformedFrameIsIgnored := by
  intro s tx nrx later ho hi hno
  obtain ⟨e, hd⟩ := decode_of_no_encoding hno
  exact ⟨_, freeBytes Config.freeReadByte s.draw nrx, step_of_malformed ho hi hd, freeBytes_length ..,
    ⟨rfl, rfl, rfl, rfl, rfl, rfl, rfl, rfl⟩, rfl, rfl⟩

end Sys2Proof.Machine
end

section
/-! PROOFS. What each chip command does to the device, on a device that takes the frame and on one that is busy or in deep
power-down (40_device_commands R120 to R143; RST, SFDP and RSID stand above). -/

namespace Sys2Proof.Machine

/-! ### When a frame is taken and when it is ignored (R120, R138, R142) -/

/-- A device that is neither busy nor in deep power-down may take every frame. -/
theorem accepts_of_available {d : Dev} (hb : d.busy = false) (hd : d.dpd = false) (i : Instr) : Accepts d i :=
  ⟨.inl hd, .inl hb⟩

theorem not_accepts_of_dpd {d : Dev} {i : Instr} (hd : d.dpd = true) (hi : isRdpd i = false) : ¬ Accepts d i :=
  fun ha => by simp [Accepts, hd, hi] at ha

theorem not_accepts_of_busy {d : Dev} {i : Instr} (hb : d.busy = true) (hi : acceptedBusy i = false) : ¬ Accepts d i :=
  fun ha => by simp [Accepts, hb, hi] at ha

theorem not_accepts_of_unavailable {d : Dev} {i : Instr} (hr : isRdpd i = false) (ha : acceptedBusy i = false)
    (h : d.busy = true ∨ d.dpd = true) : ¬ Accepts d i :=
  h.elim (not_accepts_of_busy · ha) (not_accepts_of_dpd · hr)

theorem isRdpd_of_ne {i : Instr} (h : i ≠ .rdpd) : isRdpd i = false := by
  cases i
  case rdpd => exact absurd rfl h
  all_goals rfl

theorem acceptedBusy_of_ne {i : Instr} (hsr : ∀ n, i ≠ .rdsr n) (hcr : ∀ n, i ≠ .rdcr n) (hen : i ≠ .rsten)
    (hrst : i ≠ .rst) : acceptedBusy i = false := by
  cases i
  case rdsr n => exact absurd rfl (hsr n)
  case rdcr n => exact absurd rfl (hcr n)
  case rsten => exact absurd rfl hen
  case rst => exact absurd rfl hrst
  all_goals rfl

/-- A frame that the device takes gives what its own rule answers. -/
theorem frameGives_of_ownRule {i : Instr} {s : State} {d : Dev} {rx : List Byte} (hf : isFrame i = true)
    (hw : i.wf s.cfg = true) (ha : Accepts s.dev i)
    (h : ownRule s.cfg s.draw s.dev.arm i { s.dev with arm := isRsten i } = answer d rx) : FrameGives i s d rx :=
  frameGives_of_answer hf ((devFrame_accepted ha hw).trans h)

/-- A frame that the device may not take is ignored. -/
theorem frameIgnored_of_not_accepts {i : Instr} {s : State} (hf : isFrame i = true) (h : ¬ Accepts s.dev i) :
    FrameIgnored i s :=
  ⟨_, freeBytes_length .., frameGives_of_answer hf (devFrame_ignored h)⟩

/-- An ignored frame in which nothing is received gives the device as it was but for `DEV.ARM`. -/
theorem FrameIgnored.gives {i : Instr} {s : State} (hn : received i = 0) (h : FrameIgnored i s) :
    FrameGives i s { s.dev with arm := isRsten i } [] := by
  obtain ⟨rx, hlen, hg⟩ := h
  rwa [List.eq_nil_of_length_eq_zero (hlen.trans hn)] at hg

/-- A command whose own rule does nothing touches `DEV.ARM` only, taken or ignored. -/
theorem frameGives_of_idle_rule {i : Instr} {s : State} (hf : isFrame i = true) (hn : received i = 0)
    (hown : ∀ d, ownRule s.cfg s.draw s.dev.arm i d = answer d []) :
    FrameGives i s { s.dev with arm := isRsten i } [] := by
  rcases devFrame_cases s.cfg s.draw i s.dev with e | ⟨-, e⟩
  · rw [hn] at e
    exact frameGives_of_answer hf e
  · exact frameGives_of_answer hf (e.trans (hown _))

/-- Settles O32: `acceptedBusy` holds of the four named commands only. -/
theorem busyDeviceIgnoresOtherFrames : Obligations.BusyDeviceIgnoresOtherFrames :=
  fun _ _ hb hf hsr hcr hen hrst =>
    frameIgnored_of_not_accepts hf (not_accepts_of_busy hb (acceptedBusy_of_ne hsr hcr hen hrst))

/-! ### NOP, RSTEN, the latch and deep power-down (R121, R122, R126, R127, R142, R143) -/

/-- Settles O15: NOP has no rule of its own beyond the common one. -/
theorem nopOnlyDisarms : Obligations.NopOnlyDisarms :=
  fun _ => frameGives_of_idle_rule rfl rfl fun _ => rfl

/-- Settles O16: the common rule sets `DEV.ARM` before it looks at deep power-down. -/
theorem resetEnableArms : Obligations.ResetEnableArms :=
  fun _ => frameGives_of_idle_rule rfl rfl fun _ => rfl

/-- Settles O21, WREN and WRDI alike. -/
theorem latchFramesWriteLatch : Obligations.LatchFramesWriteLatch := by
  refine fun s => ⟨fun hb hd => ?_, fun h => ?_⟩
  · have ha := accepts_of_available hb hd
    exact ⟨frameGives_of_ownRule rfl rfl (ha _) rfl, frameGives_of_ownRule rfl rfl (ha _) rfl⟩
  · have ignores : ∀ i, isFrame i = true → isRdpd i = false → acceptedBusy i = false → FrameIgnored i s :=
      fun i hf hr ha => frameIgnored_of_not_accepts hf (not_accepts_of_unavailable hr ha h)
    exact ⟨(ignores .wren rfl rfl rfl).gives rfl, (ignores .wrdi rfl rfl rfl).gives rfl⟩

/-- DPD leaves a ready device in deep power-down, where it may have been before (R142). -/
theorem frameGives_dpd {s : State} (hb : s.dev.busy = false) :
    FrameGives .dpd s { s.dev with arm := false, dpd := true } [] := by
  cases hd : s.dev.dpd with
  | false => exact frameGives_of_ownRule rfl rfl (accepts_of_available hb hd _) rfl
  | true =>
    have hg := (frameIgnored_of_not_accepts (i := .dpd) rfl (not_accepts_of_dpd hd rfl)).gives rfl
    rw [← hd]
    exact hg

/-- Settles O31: RDPD is the one frame that `isRdpd` lets through. -/
theorem deepPowerDownFramesToggle : Obligations.DeepPowerDownFramesToggle := by
  refine ⟨fun s hb => ⟨frameGives_dpd hb, ?_⟩, fun s hb => ?_, fun s i hd hf hi => ?_⟩
  · exact frameGives_of_ownRule rfl rfl ⟨.inr rfl, .inl hb⟩ rfl
  · have ignores : ∀ i, isFrame i = true → acceptedBusy i = false → FrameIgnored i s :=
      fun i hf ha => frameIgnored_of_not_accepts hf (not_accepts_of_busy hb ha)
    exact ⟨(ignores .dpd rfl rfl).gives rfl, (ignores .rdpd rfl rfl).gives rfl⟩
  · exact frameIgnored_of_not_accepts hf (not_accepts_of_dpd hd (isRdpd_of_ne hi))

/-! ### WRSR and ULBPR (R128, R141) -/

/-- Settles O20: the latch decides the command's own rule. -/
theorem writeStatusFrameWritesConfig : Obligations.WriteStatusFrameWritesConfig := by
  refine fun s st cf => ⟨fun hb hd hw => ?_, fun h => ?_⟩
  · exact frameGives_of_ownRule rfl rfl (accepts_of_available hb hd _) (if_pos hw)
  · exact frameGives_ignored rfl rfl ⟨rfl, rfl, rfl⟩ (fun d hw => by simp [ownRule, devWrsr, hw]) h

/-- Settles O30: what is left protected is the empty list of ranges (log 29). -/
theorem unlockFrameUnprotectsEverything : Obligations.UnlockFrameUnprotectsEverything := by
  refine fun s => ⟨fun hb hd hw => ⟨[], protAt_nil, ?_⟩, fun h => ?_⟩
  · exact frameGives_of_ownRule rfl rfl (accepts_of_available hb hd _) (if_pos hw)
  · exact frameGives_ignored rfl rfl ⟨rfl, rfl, rfl⟩ (fun d hw => by simp [ownRule, devUlbpr, hw]) h

/-! ### RDSR and RDCR (R124, R125) -/

/-- Bits 5:2 of the status byte (R34). -/
theorem statusByte_aux (k : Nat) (d : Dev) : (statusByte k d).extractLsb' 2 4 = d.aux := by
  refine BitVec.eq_of_getLsbD_eq fun j hj => ?_
  rw [BitVec.getLsbD_extractLsb', testBit_statusByte, if_neg (by omega), if_neg (by omega), if_pos (by omega),
    Nat.add_sub_cancel_left, decide_eq_true hj, Bool.true_and]

/-- Settles O18: the samples are those of one status byte, and only deep power-down keeps the device from answering. -/
theorem readStatusFrameReturnsStatus : Obligations.ReadStatusFrameReturnsStatus := by
  refine fun s n => ⟨fun hd => ?_, fun hd => ?_⟩
  · exact ⟨statusByte s.draw s.dev, frameGives_of_ownRule rfl rfl ⟨.inl hd, .inr rfl⟩ rfl, byteBusy_statusByte ..,
      byteWel_statusByte .., statusByte_aux ..⟩
  · exact frameIgnored_of_not_accepts rfl (not_accepts_of_dpd hd rfl)

/-- Settles O19: byte 0 of the answer is the register. -/
theorem readConfigFrameReturnsRegister : Obligations.ReadConfigFrameReturnsRegister := by
  refine fun s n => ⟨fun hd => ?_, fun hd => ?_⟩
  · exact ⟨_, frameGives_of_ownRule rfl rfl ⟨.inl hd, .inr rfl⟩ rfl, by simp, fun hn => by simp [hn]⟩
  · exact frameIgnored_of_not_accepts rfl (not_accepts_of_dpd hd rfl)

/-! ### READ, HSREAD and RDID (R129 to R131) -/

theorem readBytes_getElem? (m : Memory) (size lo : Nat) {n j : Nat} (h : j < n) :
    (readBytes m size lo n)[j]? = some (memRead m ((lo + j) % size)) := by
  simp [readBytes, h]

/-- Settles O22: both commands read from `deviceAddr` on, and the wrap of the counter absorbs that of the address. -/
theorem readFramesReturnArray : Obligations.ReadFramesReturnArray := by
  intro s i a x n hi
  have hcmd : isReadCommand i = true ∧ isRdpd i = false ∧ acceptedBusy i = false := by
    rcases hi with rfl | rfl <;> exact ⟨rfl, rfl, rfl⟩
  have hown : ∀ d, ownRule s.cfg s.draw s.dev.arm i d = devRead s.cfg a n d := by
    rcases hi with rfl | rfl <;> exact fun _ => rfl
  obtain ⟨hread, hrdpd, hbusy⟩ := hcmd
  have hf := isFrame_of_isReadCommand hread
  refine ⟨fun hb hd => ?_, fun h => frameIgnored_of_not_accepts hf (not_accepts_of_unavailable hrdpd hbusy h)⟩
  have taken := (devFrame_of_isReadCommand s.cfg s.draw hread (accepts_of_available hb hd i)).trans (hown _)
  refine ⟨_, _, frameGives_of_answer hf taken, readBytes_length .., fun j hj => ?_⟩
  rw [readBytes_getElem? _ _ _ hj, deviceAddr, Nat.mod_add_mod]

/-- Settles O23: the first three bytes are those of `idBytes`. -/
theorem readIdFrameReturnsIdentifier : Obligations.ReadIdFrameReturnsIdentifier := by
  refine fun s n => ⟨fun hb hd => ?_, fun h => ?_⟩
  · exact ⟨_, frameGives_of_ownRule rfl rfl (accepts_of_available hb hd _) rfl, by simp,
      fun hn => by simp [hn, idBytes], fun hn => by simp [hn, idBytes], fun hn => by simp [hn, idBytes]⟩
  · exact frameIgnored_of_not_accepts rfl (not_accepts_of_unavailable rfl rfl h)

/-! ### RBPR (R140, log 12) -/

/-- A range is unprotected exactly when the device's own test finds nothing in it. -/
theorem unprotected_iff {d : Dev} {lo hi : Nat} : Unprotected d lo hi ↔ rangeProtected d.prot lo hi = false := by
  rw [← Bool.not_eq_true, rangeProtected_iff]
  simp only [Unprotected, not_exists, not_and, Bool.not_eq_true]

/-- A value of 1 to 255 is a byte that is not zero. -/
theorem ofNat_succ_ne_zero (v : Fin 255) : BitVec.ofNat 8 (v.val + 1) ≠ 0 := by
  have := v.isLt
  bv_omega

/-- A read block-protection answers, and leaves the device. -/
theorem devRbpr_eq_answer (p : Params) (n : Nat) (d : Dev) : devRbpr p n d = answer d (devRbpr p n d).rx := by
  unfold devRbpr
  split_ifs <;> rfl

/-- Where something is protected, the byte at `Config.protIndex` is not zero. -/
theorem devRbpr_rx_zero_iff (p : Params) {n : Nat} (hn : 1 ≤ n) (d : Dev) :
    (∀ b ∈ (devRbpr p n d).rx, b = 0) ↔ rangeProtected d.prot 0 p.deviceSize = false := by
  unfold devRbpr
  split_ifs with hp
  · refine iff_of_false (fun hz => ?_) (by simp [hp])
    have hlt : Config.protIndex d.prot n % n < n := Nat.mod_lt _ hn
    refine ofNat_succ_ne_zero (Config.protNonzero d.prot n) (hz _ ?_)
    exact List.mem_map.mpr ⟨_, List.mem_range.mpr hlt, if_pos rfl⟩
  · exact iff_of_true (fun _ => List.eq_of_mem_replicate) (by simpa using hp)

/-- Settles O25: what the answer shows is the device's own test of the whole array. -/
theorem readProtectionIsZeroIffUnprotected : Obligations.ReadProtectionIsZeroIffUnprotected := by
  intro s n hn hb hd
  refine ⟨_, frameGives_of_ownRule rfl rfl (accepts_of_available hb hd _) (devRbpr_eq_answer ..), ?_, ?_⟩
  · exact ownRule_rx_length s.cfg s.draw s.dev.arm (.rbpr n) _
  · rw [devRbpr_rx_zero_iff s.cfg hn, unprotected_iff]

/-! ### PP and the erases (R134 to R139) -/

/-- The cases of a program or an erase, from what its own rule answers on an unprotected range, on a protected one, and
without the latch. -/
theorem startsOrIgnored_of_ownRule {i : Instr} {s : State} {lo hi : Nat} {op : Pend} (hf : isFrame i = true)
    (hw : i.wf s.cfg = true) (harm : isRsten i = false)
    (hstart : ∀ d : Dev, d.wel = true → rangeProtected d.prot lo hi = false →
      ∃ c, ownRule s.cfg s.draw s.dev.arm i d = answer { d with pend := op, busy := true, ac := c } [])
    (hprot : ∀ d : Dev, d.wel = true → rangeProtected d.prot lo hi = true →
      ∃ w, ownRule s.cfg s.draw s.dev.arm i d = answer { d with wel := w } [])
    (hun : ∀ d : Dev, d.wel = false → ownRule s.cfg s.draw s.dev.arm i d = answer d []) :
    StartsOrIgnored i s lo hi op := by
  have taken : ∀ {d}, Accepts s.dev i →
      ownRule s.cfg s.draw s.dev.arm i { s.dev with arm := false } = answer d [] → FrameGives i s d [] :=
    fun ha e => frameGives_of_ownRule hf hw ha (harm ▸ e)
  refine ⟨fun ha hwel hu => ?_, fun ha hwel hu => ?_, fun ha hwel => ?_, frameIgnored_of_not_accepts hf⟩
  · obtain ⟨c, e⟩ := hstart { s.dev with arm := false } hwel (unprotected_iff.mp hu)
    exact ⟨c, taken ha e⟩
  · obtain ⟨w, e⟩ := hprot { s.dev with arm := false } hwel (by simpa [unprotected_iff] using hu)
    exact ⟨w, taken ha e⟩
  · exact taken ha (hun _ hwel)

/-- The cases of a command whose own rule is `startErase` on its range. -/
theorem startsOrIgnored_of_startErase {i : Instr} {s : State} {lo hi : Nat} (hf : isFrame i = true)
    (hw : i.wf s.cfg = true) (harm : isRsten i = false)
    (hown : ∀ d, ownRule s.cfg s.draw s.dev.arm i d = startErase s.draw lo hi d) :
    StartsOrIgnored i s lo hi (.erase lo hi) := by
  refine startsOrIgnored_of_ownRule hf hw harm (fun d hwel hp => ⟨d.ac, ?_⟩)
    (fun d hwel hp => ⟨Config.freeWel s.draw, ?_⟩) (fun d hwel => ?_) <;> rw [hown]
  · simp [startErase, hwel, hp]
  · simp [startErase, hwel, hp]
  · simp [startErase, hwel]

/-- An aligned sector-erase is an erase of its sector (R135). -/
theorem devSe_of_aligned {p : Params} (k : Nat) {a : Addr24} (h : deviceAddr p a % p.sectorSize = 0) (d : Dev) :
    devSe p k a d = startErase k (deviceAddr p a) (deviceAddr p a + p.sectorSize) d := by
  simp [devSe, h]

/-- Settles O27: at an aligned address the command is the erase of one sector. -/
theorem sectorEraseFrameStartsErase : Obligations.SectorEraseFrameStartsErase :=
  fun s _ h => startsOrIgnored_of_startErase rfl rfl rfl (devSe_of_aligned s.draw h)

/-- Settles O28: both commands are `startErase` on their range. -/
theorem blockAndChipEraseFramesStartErase : Obligations.BlockAndChipEraseFramesStartErase :=
  fun _ _ => ⟨startsOrIgnored_of_startErase rfl rfl rfl fun _ => rfl,
    startsOrIgnored_of_startErase rfl rfl rfl fun _ => rfl⟩

/-- A page-program inside its page, with the latch set, is decided by the protection of its range (R134, R139). -/
theorem devPp_of_latched_inPage {p : Params} (k : Nat) {a : Addr24} {data : List Byte} {d : Dev} (hw : d.wel = true)
    (h : deviceAddr p a % pageSize + data.length ≤ pageSize) :
    devPp p k a data d =
      if rangeProtected d.prot (deviceAddr p a) (deviceAddr p a + data.length) then
        answer { d with wel := Config.freeWel k } []
      else answer { d with
        pend := .program (deviceAddr p a) data, busy := true, ac := a + BitVec.ofNat 24 data.length } [] := by
  simp only [devPp, hw, if_true, if_neg h.not_gt]

/-- Settles O26: inside its page the command has no meaning to refuse. -/
theorem pageProgramFrameStartsProgram : Obligations.PageProgramFrameStartsProgram := by
  intro s a data h1 h2 hpage
  have hwf : (Instr.pp a data).wf s.cfg = true := by
    rw [Instr.wf, Bool.and_eq_true]
    exact ⟨decide_eq_true h1, decide_eq_true h2⟩
  exact startsOrIgnored_of_ownRule rfl hwf rfl
    (fun _ hw hp => ⟨_, (devPp_of_latched_inPage s.draw hw hpage).trans (if_neg (Bool.eq_false_iff.mp hp))⟩)
    (fun _ hw hp => ⟨_, (devPp_of_latched_inPage s.draw hw hpage).trans (if_pos hp)⟩)
    (fun _ => devPp_unlatched s.cfg s.draw a data)

end Sys2Proof.Machine
end

section
/-! PROOFS. The latch is checked before it is used (41_seq_primitives R170, R172, R179): which point returns which status,
what a check of the latch reads, and why no frame that consumes the latch follows any other frame. -/

namespace Sys2Proof.Machine

/-! ### The exits confined to one point (R172, R191, R252, R253) -/

/-- `ProtocolViolation` is returned at a check of the latch only, and `Timeout` at the timeout test only. -/
def ReturnsAt (pt : Point) (st : Status) : Prop :=
  (st = .protocolViolation → pt = .latch ∨ pt = .cleared) ∧ (st = .timeout → pt = .test)

/-- An exit that a point may have: a return that `ReturnsAt` allows, and the command from the check of the latch only. -/
def ExitAllowed (pt : Point) : Exit → Prop
  | .ret st => ReturnsAt pt st
  | .goto next => next = .command → pt = .latch

/-- An exit that every point may have. -/
def Unconfined (x : Exit) : Prop := x = .ret .ok ∨ ∃ pt, x = .goto pt ∧ pt ≠ .command

theorem Unconfined.allowed {x : Exit} (h : Unconfined x) (pt : Point) : ExitAllowed pt x := by
  rcases h with rfl | ⟨next, rfl, hne⟩
  · exact ⟨nofun, nofun⟩
  · exact fun h => absurd h hne

theorem afterReset_unconfined (op : Op) : Unconfined (afterReset op) := by
  cases op
  case bringUp => exact .inr ⟨_, rfl, nofun⟩
  all_goals exact .inl rfl

theorem afterEnable_unconfined (op : Op) : Unconfined (afterEnable op) := by
  cases op
  case bringUp | write | eraseSector | writeStatus | unlockAllBlocks => exact .inr ⟨_, rfl, nofun⟩
  all_goals exact .inl rfl

theorem afterCleared_unconfined (p : Params) (op : Op) : Unconfined (afterCleared p op) := by
  cases op
  case write =>
    unfold afterCleared
    split_ifs
    · exact .inr ⟨_, rfl, nofun⟩
    · exact .inl rfl
  all_goals exact .inl rfl

theorem toCleared_unconfined (p : Params) (op : Op) : Unconfined (toCleared p op) := by
  unfold toCleared
  split_ifs
  · exact .inr ⟨_, rfl, nofun⟩
  · exact afterCleared_unconfined p op

theorem afterCommand_unconfined (p : Params) (op : Op) : Unconfined (afterCommand p op) := by
  cases op
  case write | eraseSector => exact .inr ⟨_, rfl, nofun⟩
  all_goals exact toCleared_unconfined p _

theorem afterDisable_unconfined (p : Params) (op : Op) : Unconfined (afterDisable p op) := by
  cases op
  case write | eraseSector => exact toCleared_unconfined p _
  all_goals exact .inl rfl

theorem loopHead_ne_command (op : Op) : loopHead op ≠ .command := by cases op <;> nofun

theorem notYet_ne_command (bound : Nat) : notYet bound ≠ .command := by
  rcases notYet_cases bound with h | h <;> rw [h] <;> nofun

/-- Every exit of a point is one that it may have. -/
theorem exits_allowed (p : Params) (op : Op) (pt : Point) : ∀ x ∈ exits p op pt, ExitAllowed pt x := by
  have one : ∀ {x : Exit}, Unconfined x → ∀ y ∈ [x], ExitAllowed pt y := fun h y hy => by
    rw [List.mem_singleton.mp hy]; exact h.allowed pt
  cases pt
  case rst => exact one (afterReset_unconfined op)
  case enable => exact one (afterEnable_unconfined op)
  case command => exact one (afterCommand_unconfined p op)
  case disable => exact one (afterDisable_unconfined p op)
  case sample | wait => exact one (.inr ⟨_, rfl, loopHead_ne_command op⟩)
  case cleared =>
    simp only [exits, List.forall_mem_cons]
    exact ⟨(afterCleared_unconfined p op).allowed _, ⟨fun _ => .inr rfl, nofun⟩, nofun⟩
  case identify | poll => cases op <;> simp [exits, ExitAllowed, ReturnsAt, notYet_ne_command]
  all_goals simp [exits, ExitAllowed, ReturnsAt]

theorem atPoint_allowed (op : Op) (pt : Point) (s : State) : ExitAllowed pt (atPoint op pt s).1 := by
  rcases atPoint_exit op pt s with h | ⟨-, e, h⟩
  · exact exits_allowed _ _ _ _ h
  · rw [h]; exact ⟨nofun, nofun⟩

/-! ### What a step leaves in progress (R190, R306) -/

theorem eq_resumeOp_of_step {s t : State} {task : Task} (ho : s.seq.op = some task) (h : step s = .next t) :
    t = resumeOp task s := by
  rw [step_of_op ho] at h
  injection h with h
  exact h.symm

/-- A step that returns leaves nothing in progress, and its status in `SEQ.ST` (R306). -/
theorem resumeOp_of_ret {op : Op} {pt : Point} {s : State} {st : Status} (h : (atPoint op pt s).1 = .ret st) :
    (resumeOp { op := op, pt := pt } s).seq.op = none ∧ (resumeOp { op := op, pt := pt } s).seq.st = st := by
  unfold resumeOp settle
  dsimp only
  rw [h]
  exact ⟨rfl, rfl⟩

/-- What is in progress after a step: nothing, the step having returned, or the same operation at its next point. -/
theorem resumeOp_cases (op : Op) (pt : Point) (s : State) :
    (∃ st, (atPoint op pt s).1 = .ret st ∧ (resumeOp { op := op, pt := pt } s).seq.op = none ∧
      (resumeOp { op := op, pt := pt } s).seq.st = st) ∨
    ∃ pt', (atPoint op pt s).1 = .goto pt' ∧
      (resumeOp { op := op, pt := pt } s).seq.op = some { op := op, pt := pt' } ∧
      (resumeOp { op := op, pt := pt } s).seq.ctx = (atPoint op pt s).2.seq.ctx := by
  rcases settle_cases op (atPoint op pt s) with ⟨st, hx, -⟩ | ⟨pt', hx, e⟩
  · exact .inl ⟨st, hx, resumeOp_of_ret hx⟩
  · exact .inr ⟨pt', hx, resumeOp_op_of_goto hx, by rw [resumeOp, e]; rfl⟩

theorem resumeOp_returnsAt {op : Op} {pt : Point} {s : State}
    (h : (resumeOp { op := op, pt := pt } s).seq.op = none) :
    ReturnsAt pt (resumeOp { op := op, pt := pt } s).seq.st := by
  rcases resumeOp_cases op pt s with ⟨st, hx, -, hst⟩ | ⟨pt', -, hop, -⟩
  · have ha := atPoint_allowed op pt s
    rw [hx] at ha
    rw [hst]; exact ha
  · rw [hop] at h; cases h

/-- No operation begins at a check of its latch, at the command that consumes it, or at a timeout test (R165). -/
theorem opening_ne (op : Op) : opening op ≠ .latch ∧ opening op ≠ .command ∧ opening op ≠ .cleared ∧ opening op ≠ .test := by
  cases op
  case write => simp only [opening, chunkPoint]; split_ifs <;> decide
  all_goals exact ⟨nofun, nofun, nofun, nofun⟩

/-- The first step of a request returns neither `ProtocolViolation` nor `Timeout` (R206). -/
theorem startOp_status_ne {op : Op} {s : State} (h : (startOp op s).seq.op = none) :
    (startOp op s).seq.st ≠ .protocolViolation ∧ (startOp op s).seq.st ≠ .timeout := by
  rcases startOp_cases op s with ⟨-, e⟩ | ⟨-, e⟩ <;> rw [e] at h ⊢
  · obtain ⟨hlatch, -, hcleared, htest⟩ := opening_ne op
    obtain ⟨hv, ht⟩ := resumeOp_returnsAt h
    exact ⟨fun hst => (hv hst).elim hlatch hcleared, fun hst => htest (ht hst)⟩
  · exact ⟨nofun, nofun⟩

/-! ### What a read of the status finds (R166, R172, R179) -/

/-- A step that begins by reading the status: one RDSR frame, after which it goes on with the byte read, or returns the
frame's error. -/
theorem onOk_readStatus (s : State) (k : State → Run) :
    ∃ r, (readStatus s).s.trace = s.trace ++ [r] ∧ r.tx = [s.cfg.ops.rdsr] ∧
      ((r.err = none ∧ (readStatus s).st = .ok ∧ r.rx = [(readStatus s).s.seq.ctx.srs] ∧
          onOk (readStatus s) k = k (readStatus s).s) ∨
        ∃ e, r.err = some e ∧ onOk (readStatus s) k = (.ret (.transportError e), (readStatus s).s)) := by
  obtain ⟨r, htr, htx, ⟨herr, hst, hrx⟩ | ⟨e, herr, hst⟩⟩ := readStatus_read s
  · exact ⟨r, htr, htx, .inl ⟨herr, hst, hrx, onOk_ok hst k⟩⟩
  · rcases onOk_cases (readStatus s) k with ⟨hok, -⟩ | ⟨-, h⟩
    · rw [hst] at hok; cases hok
    · exact ⟨r, htr, htx, .inr ⟨e, herr, h.trans (by rw [hst])⟩⟩

theorem readStatus_status (s : State) : (readStatus s).st = (seqFrame [s.cfg.ops.rdsr] [] 1 s).st := by
  unfold readStatus
  rcases seqFrame_st [s.cfg.ops.rdsr] [] 1 s with h | ⟨e, h⟩ <;> simp only [h]

/-- A read of the status leaves the array as the engine had it (R68, R124). -/
theorem readStatus_mem {s : State} (hv : validParams s.cfg = true) (h : (readStatus s).st = .ok) :
    (readStatus s).s.dev.mem = (devAtFrame s).mem := by
  rw [readStatus_status] at h
  rw [readStatus_dev, seqFrame_dev h, pass_dev_eq, devTakes, devConsume, decode_rdsr hv]
  split_ifs
  · rfl
  · dsimp only
    rcases devFrame_cases s.cfg s.draw (.rdsr 1) (devAtFrame s) with e | ⟨-, e⟩ <;> rw [e] <;> rfl

/-- What a check of the latch does: it reads the status by one frame `r`, goes on to `good` when WEL is `wel` in the byte
read, returns `ProtocolViolation` when it is not, and leaves the array (R172, R179). -/
structure ChecksWel (s : State) (x : Run) (wel : Bool) (good : Exit) (r : FrameRec) : Prop where
  trace  : x.2.trace = s.trace ++ [r]
  tx     : r.tx = [s.cfg.ops.rdsr]
  read   : r.err = none → ∃ b, r.rx = [b] ∧ x.1 = if byteWel b = wel then good else .ret .protocolViolation
  failed : ∀ e, r.err = some e → x.1 = .ret (.transportError e)
  mem    : validParams s.cfg = true → r.err = none → x.2.dev.mem = (devAtFrame s).mem

theorem onOk_readStatus_checksWel {s : State} {k : State → Run} {wel : Bool} {good : Exit}
    (hx : ∀ u, (k u).1 = if byteWel u.seq.ctx.srs = wel then good else .ret .protocolViolation)
    (hk : ∀ u, (k u).2.trace = u.trace ∧ (k u).2.dev = u.dev) :
    ∃ r, ChecksWel s (onOk (readStatus s) k) wel good r := by
  obtain ⟨r, htr, htx, ⟨herr, hst, hrx, e⟩ | ⟨er, herr, e⟩⟩ := onOk_readStatus s k <;> rw [e]
  · obtain ⟨ktr, kdev⟩ := hk (readStatus s).s
    exact ⟨r, ktr.trans htr, htx, fun _ => ⟨_, hrx, hx _⟩, fun _ h => (by rw [herr] at h; cases h),
      fun hv _ => by rw [kdev]; exact readStatus_mem hv hst⟩
  · exact ⟨r, htr, htx, fun h => (by rw [herr] at h; cases h), fun _ h => by rw [Option.some.inj (herr.symm.trans h)],
      fun _ h => by rw [herr] at h; cases h⟩

theorem latch_checksWel (op : Op) (s : State) :
    ∃ r, ChecksWel s (atPoint op .latch s) true (.goto .command) r := by
  obtain ⟨r, h⟩ := onOk_readStatus_checksWel (s := s.setPhase .latchCheck) (wel := true) (good := .goto .command)
    (k := fun u => if byteWel u.seq.ctx.srs then (.goto .command, u)
      else (.ret .protocolViolation, (u.setPhase .reject).setPhase .idle))
    (fun u => by split_ifs <;> rfl) (fun u => by split_ifs <;> exact ⟨rfl, rfl⟩)
  exact ⟨r, h.trace, h.tx, h.read, h.failed, h.mem⟩

theorem cleared_checksWel (op : Op) (s : State) :
    ∃ r, ChecksWel s (atPoint op .cleared s) false (afterCleared s.cfg op) r :=
  onOk_readStatus_checksWel
    (k := fun u => if byteWel u.seq.ctx.srs then (.ret .protocolViolation, u) else (afterCleared s.cfg op, u))
    (fun u => by cases byteWel u.seq.ctx.srs <;> rfl) (fun u => by split_ifs <;> exact ⟨rfl, rfl⟩)

/-! ### No latch-consuming frame without the check before it (R170) -/

/-- The frame of a point other than the command opens with an opcode that consumes no latch. -/
theorem pointFrame_keepsLatch {op : Op} {pt : Point} {s : State} {hdr dout : List Byte} {nin : Nat}
    (h : pointFrame op pt s = some (hdr, dout, nin)) (hp : pt ≠ .command) :
    ∃ c : Cmd, hdr.head? = some (s.cfg.ops.byte c) ∧ c ∉ [Cmd.pp, .se, .ulbpr, .wrsr] := by
  cases pt <;> simp only [pointFrame, Option.some.injEq, Prod.mk.injEq, reduceCtorEq] at h <;> obtain ⟨rfl, -, -⟩ := h
  case command => exact absurd rfl hp
  case rsten => exact ⟨.rsten, rfl, by decide⟩
  case rst => exact ⟨.rst, rfl, by decide⟩
  case identify => exact ⟨.rdid, rfl, by decide⟩
  case enable => exact ⟨.wren, rfl, by decide⟩
  case disable => exact ⟨.wrdi, rfl, by decide⟩
  case config => exact ⟨.rdcr, rfl, by decide⟩
  case readBack | transfer | slice => exact ⟨.read, rfl, by decide⟩
  all_goals exact ⟨.rdsr, rfl, by decide⟩

theorem consumesLatch_iff {o : Opcodes} {r : FrameRec} :
    consumesLatch o r ↔ ∃ c ∈ [Cmd.pp, .se, .ulbpr, .wrsr], r.tx.head? = some (o.byte c) := by
  simp [consumesLatch, Opcodes.byte, and_or_left, exists_or]

/-- The record of a frame opens as its header does, whether or not its transport failed. -/
theorem Recorded.head {hdr dout rx : List Byte} {nin : Nat} {before after : List FrameRec} {st : Status} {b : Byte}
    (h : Recorded hdr dout nin before after st rx) (hh : hdr.head? = some b) :
    ∃ r, after = before ++ [r] ∧ r.tx.head? = some b := by
  obtain ⟨tl, rfl⟩ := List.head?_eq_some_iff.mp hh
  rcases h with ⟨-, -, tr⟩ | ⟨sent, e, rfl | rfl, -, tr⟩ <;> exact ⟨_, tr, rfl⟩

/-- A step adds no frame that consumes the latch, unless it is the step of the command (R170). -/
theorem atPoint_consumesLatch {op : Op} {pt : Point} {s : State} {r : FrameRec} (hv : validParams s.cfg = true)
    (ht : (atPoint op pt s).2.trace = s.trace ++ [r]) (hc : consumesLatch s.cfg.ops r) : pt = .command := by
  by_contra hp
  cases hsends : sendsNothing pt with
  | true =>
    rw [(atPoint_quiet hsends).1] at ht
    simp at ht
  | false =>
    obtain ⟨hdr, dout, nin, hf⟩ := exists_pointFrame op s hsends
    obtain ⟨c, hh, hcmd⟩ := pointFrame_keepsLatch hf hp
    obtain ⟨st, rx, hs⟩ := atPoint_frame hf
    obtain ⟨q, htr, hopens⟩ := hs.recorded.head hh
    obtain rfl : r = q := List.singleton_inj.mp (List.append_cancel_left (ht.symm.trans htr))
    obtain ⟨consumer, hmem, hconsumer⟩ := consumesLatch_iff.mp hc
    rw [byte_injective hv (Option.some.inj (hopens.symm.trans hconsumer))] at hcmd
    exact hcmd hmem

/-- The last frame of a trace is a read-status that saw the latch set (R172). -/
def LatchJustSeen (o : Opcodes) (trace : List FrameRec) : Prop :=
  ∃ earlier q, trace = earlier ++ [q] ∧ sawLatch o q

/-- Every frame of a trace that consumes the latch comes right after one that saw it set (R170). -/
def GuardedTrace (o : Opcodes) (trace : List FrameRec) : Prop :=
  ∀ before r after, trace = before ++ r :: after → consumesLatch o r → LatchJustSeen o before

theorem GuardedTrace.append {o : Opcodes} {trace : List FrameRec} {r : FrameRec} (h : GuardedTrace o trace)
    (hr : consumesLatch o r → LatchJustSeen o trace) : GuardedTrace o (trace ++ [r]) := by
  intro before q after e hq
  rcases List.eq_nil_or_concat after with rfl | ⟨after, x, rfl⟩
  · obtain ⟨rfl, hrq⟩ := List.append_inj' e rfl
    rw [List.singleton_inj.mp hrq] at hr
    exact hr hq
  · have e' : trace ++ [r] = (before ++ q :: after) ++ [x] := by simpa using e
    exact h before q after (List.append_inj' e' rfl).1 hq

/-- The command is reached from the check of the latch only, which has then seen it set (R170, R172). -/
theorem latchJustSeen_of_goto_command {op : Op} {pt : Point} {s : State} (h : (atPoint op pt s).1 = .goto .command) :
    LatchJustSeen s.cfg.ops (atPoint op pt s).2.trace := by
  have ha := atPoint_allowed op pt s
  rw [h] at ha
  obtain rfl : pt = .latch := ha rfl
  obtain ⟨r, hr⟩ := latch_checksWel op s
  cases herr : r.err with
  | some e => rw [hr.failed e herr] at h; cases h
  | none =>
    obtain ⟨b, hb, hx⟩ := hr.read herr
    rw [h] at hx
    split_ifs at hx with hw
    exact ⟨s.trace, r, hr.trace, hr.tx, herr, b, hb, hw⟩

/-- Every step of an operation keeps the guard of the latch. -/
theorem resumeOp_latchGuarded {op : Op} {pt : Point} {s : State} (hv : validParams s.cfg = true)
    (ho : s.seq.op = some { op := op, pt := pt }) (h : LatchGuarded s) :
    LatchGuarded (resumeOp { op := op, pt := pt } s) := by
  have hcfg : (resumeOp { op := op, pt := pt } s).cfg = s.cfg := (resumeOp_stepKeeps _ s).cfg
  have htrace : (resumeOp { op := op, pt := pt } s).trace = (atPoint op pt s).2.trace := settle_trace ..
  constructor
  · rw [hcfg, htrace]
    rcases atPoint_trace_cases op pt s with e | ⟨_, _, _, r, -, e, -⟩
    · rw [e]; exact h.past
    · rw [e]
      refine GuardedTrace.append h.past fun hc => ?_
      obtain rfl := atPoint_consumesLatch hv e hc
      exact h.next op ho
  · intro op' hop
    rw [hcfg, htrace]
    rcases resumeOp_cases op pt s with ⟨st, -, hnone, -⟩ | ⟨pt', hx, hsome, -⟩
    · rw [hnone] at hop; cases hop
    · obtain rfl : pt' = .command := (Task.mk.inj (Option.some.inj (hsome.symm.trans hop))).2
      exact latchJustSeen_of_goto_command hx

/-- A request as accepted has sent nothing, and does not stand at a command. -/
theorem begin_latchGuarded (op : Op) (c : Context) (s : State) :
    LatchGuarded (s.begin { op := op, pt := opening op } c) where
  past before r after h := by simp at h
  next op' h := absurd (Task.mk.inj (Option.some.inj h)).2 (opening_ne op).2.1

theorem startOp_latchGuarded {op : Op} {s : State} (hv : validParams s.cfg = true) : LatchGuarded (startOp op s) := by
  rcases startOp_cases op s with ⟨-, e⟩ | ⟨-, e⟩ <;> rw [e]
  · exact resumeOp_latchGuarded hv rfl (begin_latchGuarded op _ s)
  · exact ⟨(begin_latchGuarded op s.seq.ctx s).past, nofun⟩

/-- The check of the cleared latch goes on to the read-back of a write where there is one, else it returns `Ok` (R179). -/
theorem afterCleared_eq_ret {p : Params} {op : Op}
    (h : (∀ x addr n, op ≠ .write x addr n) ∨ p.verifyAfterWrite = false) : afterCleared p op = .ret .ok := by
  cases op
  case write =>
    have hv := h.resolve_left fun h => h _ _ _ rfl
    rw [afterCleared, hv]; rfl
  all_goals rfl

/-- Settles O56: the guard is kept step by step, and the two checks of the latch are one lemma each. -/
theorem latchIsCheckedBeforeUse : Obligations.LatchIsCheckedBeforeUse := by
  refine ⟨fun s t i hf h => ?_, fun s t task hv ho h hg => ?_, fun s t i hf h hnone => ?_, fun s t op pt hv ho h => ?_⟩
  · obtain ⟨⟨-, -, hv⟩, op, -, rfl⟩ := exec_of_request hf h
    exact startOp_latchGuarded hv
  · obtain rfl := eq_resumeOp_of_step ho h
    exact resumeOp_latchGuarded hv ho hg
  · obtain ⟨-, op, -, rfl⟩ := exec_of_request hf h
    exact (startOp_status_ne hnone).1
  · obtain rfl := eq_resumeOp_of_step ho h
    refine ⟨fun hnone hst => (resumeOp_returnsAt hnone).1 hst, ?_⟩
    rintro (rfl | rfl)
    · obtain ⟨r, hr⟩ := latch_checksWel op s
      refine ⟨r, (settle_trace ..).trans hr.trace, hr.tx, fun herr => ?_⟩
      obtain ⟨b, hb, hx⟩ := hr.read herr
      refine ⟨b, hb, (congrArg Dev.mem (settle_dev ..)).trans (hr.mem hv herr), fun hw => ?_, fun _ hw => ?_, nofun⟩
      · exact resumeOp_of_ret (hx.trans (if_neg (by rw [hw]; decide)))
      · exact resumeOp_op_of_goto (hx.trans (if_pos hw))
    · obtain ⟨r, hr⟩ := cleared_checksWel op s
      refine ⟨r, (settle_trace ..).trans hr.trace, hr.tx, fun herr => ?_⟩
      obtain ⟨b, hb, hx⟩ := hr.read herr
      refine ⟨b, hb, (congrArg Dev.mem (settle_dev ..)).trans (hr.mem hv herr), fun hw => ?_, nofun, fun _ hw => ⟨?_, ?_⟩⟩
      · exact resumeOp_of_ret (hx.trans (if_neg (by rw [hw]; decide)))
      · rintro x addr n rfl hverify
        exact resumeOp_op_of_goto (hx.trans ((if_pos hw).trans (if_pos hverify)))
      · exact fun h => resumeOp_of_ret (hx.trans ((if_pos hw).trans (afterCleared_eq_ret h)))

end Sys2Proof.Machine
end

section
/-! PROOFS. The requests of one frame, `writeEnable`, `writeDisable`, `readStatus`, `readConfig` and `checkId`
(41_seq_primitives R166 to R169, R176), and the two that write a register, `writeStatus` and `unlockAllBlocks` (R177 to
R179). -/

namespace Sys2Proof.Machine

/-! ### A request of one frame (R163, R164) -/

/-- The state in which the first step of an accepted request is taken. -/
def accepted (i : Instr) (op : Op) (s : State) : State :=
  (s.lend (inputBuffer i s)).begin { op := op, pt := opening op } (openingContext s.cfg s.seq.ctx op)

theorem frameStatus_of_noError {sl : Slot} (h : sl.hdrErr = none) (g : sl.dataErr = none) (dout : List Byte) (nin : Nat) :
    frameStatus sl dout nin = .ok := by
  unfold frameStatus
  rw [h, g]
  exact ite_self _

/-- A request whose first step sends a frame that does not fail, and returns. -/
theorem requestGivesAtOnce_of_frame {i : Instr} {s : State} {op : Op} {st : Status} {d : Dev} {hdr dout out : List Byte}
    {nin : Nat} (hr : Ready s) (ho : requestOp s.cfg i = some op) (ha : rightlyAligned s.cfg op = true)
    (hf : pointFrame op (opening op) (accepted i op s) = some (hdr, dout, nin))
    (hh : s.slot.hdrErr = none) (hd : s.slot.dataErr = none)
    (hx : (atPoint op (opening op) (accepted i op s)).1 = .ret st)
    (hdev : (atPoint op (opening op) (accepted i op s)).2.dev = d)
    (hout : (atPoint op (opening op) (accepted i op s)).2.host.out = out) :
    RequestGivesAtOnce i s st [hdr ++ dout] out (codeOf op.adapter st) d := by
  obtain ⟨fst, rx, hs⟩ := atPoint_frame hf
  have hok : fst = .ok := hs.status.trans (frameStatus_of_noError hh hd dout nin)
  have hk := atPoint_rests op (opening op) (accepted i op s)
  refine requestGivesAtOnce_of_step hr ho ha (Prod.ext hx rfl) hdev ?_ hs.sel hk.cfg hk.inbox hk.rest hk.geo hk.inp hout
  rcases hs.recorded with ⟨-, -, tr⟩ | ⟨-, e, -, herr, -⟩
  · exact congrArg (List.map FrameRec.tx) tr
  · rw [hok] at herr; cases herr

/-! ### `writeEnable` and `writeDisable` (R168, R169) -/

/-- A command that writes the latch does so on a device that may take it, and else touches `DEV.ARM` only (R126, R127). -/
theorem devFrame_of_latch_rule {p : Params} {k : Nat} {i : Instr} {d : Dev} {w : Bool} (hw : i.wf p = true)
    (hr : isRdpd i = false) (hb : acceptedBusy i = false) (harm : isRsten i = false)
    (hown : ∀ e, ownRule p k d.arm i e = answer { e with wel := w } []) :
    (devFrame p k i d).dev =
      { d with arm := false, wel := if d.busy = false ∧ d.dpd = false then w else d.wel } := by
  split_ifs with h
  · rw [devFrame_accepted (accepts_of_available h.1 h.2 i) hw, hown, harm]
    rfl
  · rw [devFrame_ignored (not_accepts_of_unavailable hr hb (by simpa [imp_iff_not_or] using h)), harm]
    rfl

/-- A step that only sends a frame, in a slot in which nothing fails. -/
theorem sendFrame_of_noError {s : State} (h : s.slot.noError) {hdr dout : List Byte} {i : Instr} (x : Exit)
    (hi : decodeFrame s.cfg.ops (hdr ++ dout) 0 = .ok i) :
    (sendFrame hdr dout x s).1 = x ∧ (sendFrame hdr dout x s).2.dev = (devFrame s.cfg s.draw i (devAtFrame s)).dev ∧
      (sendFrame hdr dout x s).2.host = s.host := by
  obtain ⟨hst, -, hdev, -⟩ := seqFrame_command h hi
  rw [sendFrame, onOk_ok hst]
  exact ⟨rfl, hdev, (seqFrame_same ..).2.2.2⟩

/-- Settles O36: each request is the step of its one frame. -/
theorem latchRequestsSendOneFrame : Obligations.LatchRequestsSendOneFrame := by
  intro s hr hs
  have ⟨_, _, hv⟩ := hr
  constructor
  · obtain ⟨hx, hdev, hhost⟩ := sendFrame_of_noError (s := accepted .reqWriteEnable .writeEnable s) hs (.ret .ok)
      (decode_wren hv)
    exact requestGivesAtOnce_of_frame (op := .writeEnable) hr rfl rfl rfl hs.1 hs.2.1 hx
      (hdev.trans (devFrame_of_latch_rule rfl rfl rfl rfl fun _ => rfl)) (congrArg HostPort.out hhost)
  · obtain ⟨hx, hdev, hhost⟩ := sendFrame_of_noError (s := accepted .reqWriteDisable .writeDisable s) hs (.ret .ok)
      (decode_wrdi hv)
    exact requestGivesAtOnce_of_frame (op := .writeDisable) hr rfl rfl rfl hs.1 hs.2.1 hx
      (hdev.trans (devFrame_of_latch_rule rfl rfl rfl rfl fun _ => rfl)) (congrArg HostPort.out hhost)

/-! ### `readStatus` and `readConfig` (R166, R167) -/

theorem readStatus_rx (s : State) : (readStatus s).rx = (seqFrame [s.cfg.ops.rdsr] [] 1 s).rx := by
  unfold readStatus
  rcases seqFrame_st [s.cfg.ops.rdsr] [] 1 s with h | ⟨e, h⟩ <;> simp only [h]

/-- Settles O37: a device out of deep power-down answers both frames, busy or not, and the byte is delivered. -/
theorem registerReadsDeliverOneByte : Obligations.RegisterReadsDeliverOneByte := by
  intro s hr hs hd
  have ⟨_, _, hv⟩ := hr
  constructor
  · obtain ⟨hst, hrx, hdev, -⟩ := seqFrame_command (s := accepted .reqReadStatus .readStatus s) hs (decode_rdsr hv)
    have ha : devFrame s.cfg s.draw (.rdsr 1) (devAtFrame s) =
        answer { devAtFrame s with arm := false } [statusByte s.draw { devAtFrame s with arm := false }] :=
      devFrame_accepted ⟨.inl hd, .inr rfl⟩ rfl
    refine ⟨statusByte s.draw { devAtFrame s with arm := false },
      requestGivesAtOnce_of_frame (op := .readStatus) hr rfl rfl rfl hs.1 hs.2.1 ?_ ?_ ?_,
      byteBusy_statusByte .., byteWel_statusByte .., statusByte_aux ..⟩
    · exact congrArg Exit.ret ((readStatus_status _).trans hst)
    · exact (readStatus_dev _).trans (hdev.trans (congrArg Answer.dev ha))
    · exact (readStatus_rx _).trans (hrx.trans (congrArg Answer.rx ha))
  · obtain ⟨hst, hrx, hdev, -⟩ := seqFrame_command (s := accepted .reqReadConfig .readConfig s) hs (decode_rdcr hv)
    have ha : devFrame s.cfg s.draw (.rdcr 1) (devAtFrame s) =
        answer { devAtFrame s with arm := false } [(devAtFrame s).cr] :=
      devFrame_accepted ⟨.inl hd, .inr rfl⟩ rfl
    exact requestGivesAtOnce_of_frame (op := .readConfig) hr rfl rfl rfl hs.1 hs.2.1 (congrArg Exit.ret hst)
      (hdev.trans (congrArg Answer.dev ha)) (hrx.trans (congrArg Answer.rx ha))

/-! ### `checkId` (R176) -/

/-- The bytes of a frame none of whose calls failed are those of the device, or free when it took none (R163, log 34). -/
theorem seqFrame_rx {hdr dout : List Byte} {nin : Nat} {s : State} (h : (seqFrame hdr dout nin s).st = .ok) :
    (seqFrame hdr dout nin s).rx = (devTakes s.cfg s.draw s.slot.absent (hdr ++ dout) nin s.pass.dev).rx := by
  cases hh : s.slot.hdrErr with
  | some e => simp [seqFrame, frameFailed, hh] at h
  | none =>
    cases hd : s.slot.dataErr <;> by_cases hz : dout = [] ∧ nin = 0 <;>
      simp [seqFrame, frameFailed, frameDone, hh, hd, hz] at h ⊢

theorem checkId_st {s : State} (h : (seqFrame [s.cfg.ops.rdid] [] 3 s).st = .ok) :
    (checkId s).st =
      if (seqFrame [s.cfg.ops.rdid] [] 3 s).rx = idBytes s.cfg.expectedId then .ok else .verificationFailure := by
  obtain ⟨-, hrx, ⟨hst, hid⟩ | ⟨-, hst, hid⟩⟩ := checkId_of s
  · rw [← hrx, if_pos (hid (hst.trans h)), hst, h]
  · rw [← hrx, if_neg hid, hst]

theorem idBytes_inj {i j : ChipId} : idBytes i = idBytes j ↔ i = j := by
  cases i; cases j; simp [idBytes]

@[simp] theorem devAtFrame_id (s : State) : (devAtFrame s).id = s.dev.id := by
  unfold devAtFrame
  split_ifs
  · exact (engineComplete_sameParts _).id
  · rfl

/-- `checkId` is one RDID frame, whose bytes are compared, whether or not the device takes it. -/
theorem checkIdRequest_gives {s : State} (hr : Ready s) (hh : s.slot.hdrErr = none) (hd : s.slot.dataErr = none)
    {a : Answer} (ha : devTakes s.cfg s.draw s.slot.absent [s.cfg.ops.rdid] 3 (devAtFrame s) = a) :
    RequestGivesAtOnce .reqCheckId s (if a.rx = idBytes s.cfg.expectedId then .ok else .verificationFailure)
      [[s.cfg.ops.rdid]] [] none a.dev := by
  subst ha
  set s0 := accepted .reqCheckId .checkId s with hs0
  have hst : (seqFrame [s0.cfg.ops.rdid] [] 3 s0).st = .ok :=
    (seqFrame_status ..).trans (frameStatus_of_noError hh hd _ _)
  have hs : (checkId s0).s = (seqFrame [s0.cfg.ops.rdid] [] 3 s0).s := (checkId_of _).1
  refine requestGivesAtOnce_of_frame (op := .checkId) hr rfl rfl rfl hh hd (congrArg Exit.ret ?_) ?_ ?_
  · rw [← hs0, checkId_st hst, seqFrame_rx hst]
    rfl
  · exact (congrArg State.dev hs).trans (seqFrame_dev hst)
  · exact congrArg HostPort.out ((congrArg State.host hs).trans (seqFrame_same ..).2.2.2)

/-- Settles O38, by what the device does with the one frame: it answers, ignores it, or is not there. -/
theorem checkIdComparesThreeBytes : Obligations.CheckIdComparesThreeBytes := by
  intro s hr hh hd
  have taken : s.slot.absent = false → devTakes s.cfg s.draw s.slot.absent [s.cfg.ops.rdid] 3 (devAtFrame s) =
      devFrame s.cfg s.draw (.rdid 3) (devAtFrame s) := fun h => by
    have hdec : decodeFrame s.cfg.ops [s.cfg.ops.rdid] 3 = .ok (.rdid 3) := decode_rdid hr.2.2
    rw [h, devTakes, if_neg Bool.false_ne_true, devConsume, hdec]
  refine ⟨fun habs hbusy hdpd => ?_, fun habs h => ?_, fun habs => ?_⟩
  · have h := checkIdRequest_gives hr hh hd ((taken habs).trans (devFrame_accepted (accepts_of_available hbusy hdpd _) rfl))
    have hid : (ownRule s.cfg s.draw (devAtFrame s).arm (.rdid 3) { devAtFrame s with arm := false }).rx =
        idBytes s.dev.id := congrArg idBytes (devAtFrame_id s)
    rwa [show isRsten (.rdid 3) = false from rfl, hid, if_congr idBytes_inj rfl rfl] at h
  · exact ⟨_, ite_eq_or_eq .., checkIdRequest_gives hr hh hd
      ((taken habs).trans (devFrame_ignored (not_accepts_of_unavailable rfl rfl h)))⟩
  · exact ⟨_, ite_eq_or_eq .., checkIdRequest_gives hr hh hd (a := notTaken s.draw 3 (devAtFrame s)) (by rw [habs]; rfl)⟩

/-! ### `writeStatus` and `unlockAllBlocks` (R177, R178) -/

/-- Settles O45: the latch is set and seen, so that the device takes the register write, which clears it. -/
theorem writeStatusRequestWritesConfig : Obligations.WriteStatusRequestWritesConfig := by
  intro s st cf hr hb hl
  obtain ⟨t, k, b, -, h⟩ := Reaches.latched (s := accepted (.reqWriteStatus st cf) (.writeStatus st cf) s)
    (op := .writeStatus st cf) hr.2.2 hb hl rfl (fun _ _ hc _ _ => by simp only [latchCommand, hc])
    (decode_wrsr hr.2.2 st cf) rfl
  obtain ⟨u, -, h, -⟩ := h.cleared hr.2.2 hl rfl rfl
  exact requestGives_of_reaches (op := .writeStatus st cf) hr rfl rfl (.inr (List.cons_ne_nil _ _)) h

/-- Settles O46: the latch is set and seen, so that the device takes the unlock, which clears it (log 29). -/
theorem unlockRequestUnprotectsEverything : Obligations.UnlockRequestUnprotectsEverything := by
  intro s hr hb hl
  obtain ⟨t, k, b, -, h⟩ := Reaches.latched (s := accepted .reqUnlockAllBlocks .unlockAllBlocks s)
    (op := .unlockAllBlocks) hr.2.2 hb hl rfl (fun _ _ hc _ _ => by simp only [latchCommand, hc]) (decode_ulbpr hr.2.2) rfl
  obtain ⟨u, -, h, -⟩ := h.cleared hr.2.2 hl rfl rfl
  exact ⟨[], protAt_nil, requestGives_of_reaches (op := .unlockAllBlocks) hr rfl rfl (.inr (List.cons_ne_nil _ _)) h⟩

end Sys2Proof.Machine
end

section
/-! PROOFS. The waits (41_seq_primitives R174, 42_seq_operations R191, R200, R204): the timeout test alone returns `Timeout`
and compares with the start of the wait, which no other step moves; a wait without bound of a busy device goes round. -/

namespace Sys2Proof.Machine

/-! ### The start of the wait (R21, R174) -/

@[simp] theorem chunkHead_t0 (c : Context) : (chunkHead c).t0 = c.t0 := by
  unfold chunkHead
  split_ifs <;> rfl

theorem whenReady_t0 (op : Op) (s : State) : (whenReady op s).2.seq.ctx.t0 = s.seq.ctx.t0 := by
  cases op
  case write => simp [whenReady, advanceCursor]
  all_goals rfl

theorem readStatus_t0 (s : State) : (readStatus s).s.seq.ctx.t0 = s.seq.ctx.t0 := by
  obtain ⟨b, h⟩ := readStatus_ctx s
  rw [h]

theorem readRange_t0 (a : Word) (n : Nat) (s : State) : (readRange a n s).s.seq.ctx.t0 = s.seq.ctx.t0 := by
  rw [readRange, (seqFrame_same ..).1]
  rfl

theorem onOk_t0 {r : FrameResult} {k : State → Run} (g : ∀ t, (k t).2.seq.ctx.t0 = t.seq.ctx.t0) :
    (onOk r k).2.seq.ctx.t0 = r.s.seq.ctx.t0 := by
  rcases onOk_cases r k with ⟨-, e⟩ | ⟨-, e⟩ <;> rw [e]
  exact g _

/-- No step but the sample writes `SEQ.T0`. -/
theorem atPoint_t0 (op : Op) {pt : Point} (s : State) (h : pt ≠ .sample) :
    (atPoint op pt s).2.seq.ctx.t0 = s.seq.ctx.t0 := by
  have other : (pt ≠ .readBack ∧ pt ≠ .slice ∧ pt ≠ .transfer) → pt ≠ .poll →
      (atPoint op pt s).2.seq.ctx.t0 = s.seq.ctx.t0 := fun hq hp => by
    obtain ⟨b, t0, e, ht0⟩ := atPoint_ctx (op := op) hq (fun hpoll => absurd hpoll hp) s
    rw [e]; exact ht0 h
  cases pt
  case poll =>
    refine (onOk_t0 fun t => ?_).trans (readStatus_t0 s)
    split_ifs
    · rfl
    · exact whenReady_t0 op t
  case readBack => exact (onOk_t0 fun t => by split_ifs <;> rfl).trans (readRange_t0 ..)
  case slice => exact (onOk_t0 fun t => by split_ifs <;> rfl).trans (readRange_t0 ..)
  case transfer => exact readRange_t0 ..
  all_goals exact other ⟨nofun, nofun, nofun⟩ nofun

theorem resumeOp_t0 {op : Op} {pt : Point} {s : State} (h : pt ≠ .sample)
    (ho : (resumeOp { op := op, pt := pt } s).seq.op ≠ none) :
    (resumeOp { op := op, pt := pt } s).seq.ctx.t0 = s.seq.ctx.t0 := by
  rcases resumeOp_cases op pt s with ⟨st, -, hnone, -⟩ | ⟨pt', -, -, hctx⟩
  · exact absurd hnone ho
  · rw [hctx]; exact atPoint_t0 op s h

/-! ### The timeout test and the poll (R174, R253) -/

theorem waitBound_of_hasBound {p : Params} {op : Op} {bound : Nat} (h : HasBound p op bound) :
    waitBound p op = bound := by
  rcases h with ⟨b, rfl, rfl⟩ | ⟨a, rfl, rfl⟩ | ⟨a, addr, n, rfl, rfl⟩ | ⟨a, addr, rfl, rfl⟩ <;> rfl

/-- The timeout test returns exactly when there is a bound and more time than it has passed, by the clock it samples. -/
theorem timeTest_exit (bound : Nat) (s : State) :
    (timeTest bound s).1 = if 0 < bound ∧ bound < s.pass.clock - s.seq.ctx.t0 then .ret .timeout else .goto .wait := by
  unfold timeTest
  dsimp only
  rw [apply_ite Prod.fst]
  exact if_congr (and_congr Nat.pos_iff_ne_zero.symm decide_eq_true_iff) rfl rfl

theorem resumeOp_test_clock (op : Op) (s : State) : (resumeOp { op := op, pt := .test } s).clock = s.pass.clock := by
  rw [resumeOp, settle_clock]
  exact timeTest_clock ..

theorem chunkPoint_cases (rem : Word) : chunkPoint rem = .enable ∨ chunkPoint rem = .disable := by
  unfold chunkPoint
  split_ifs
  · exact .inr rfl
  · exact .inl rfl

/-- A busy-poll that is left returns `Ok`, or goes on to the next chunk or to the write-disable (R174, R200, R204). -/
theorem whenReady_exit (op : Op) (s : State) :
    (whenReady op s).1 = .ret .ok ∨ (whenReady op s).1 = .goto .enable ∨ (whenReady op s).1 = .goto .disable := by
  cases op
  case write => exact .inr ((chunkPoint_cases _).imp (congrArg Exit.goto) (congrArg Exit.goto))
  case eraseSector => exact .inr (.inr rfl)
  all_goals exact .inl rfl

theorem whenReady_trace (op : Op) (s : State) : (whenReady op s).2.trace = s.trace := by cases op <;> rfl

/-- A poll reads the status by one frame, and BUSY in the byte read says whether the loop is left (R174). -/
theorem poll_reads (op : Op) (s : State) :
    ∃ r, (atPoint op .poll s).2.trace = s.trace ++ [r] ∧ r.tx = [s.cfg.ops.rdsr] ∧
      (r.err = none → ∃ b u, r.rx = [b] ∧ (atPoint op .poll s).1 =
        if byteBusy b then .goto (notYet (waitBound s.cfg op)) else (whenReady op u).1) := by
  obtain ⟨r, htr, htx, ⟨-, -, hrx, e⟩ | ⟨er, herr, e⟩⟩ := onOk_readStatus s fun u =>
      if byteBusy u.seq.ctx.srs then (.goto (notYet (waitBound s.cfg op)), u) else whenReady op u <;>
    refine ⟨r, ?_, htx, fun hnone => ?_⟩ <;> dsimp only [atPoint, pollOnce] <;> rw [e]
  · split_ifs
    · exact htr
    · rw [whenReady_trace]; exact htr
  · refine ⟨_, (readStatus s).s, hrx, ?_⟩
    split_ifs <;> rfl
  · exact htr
  · rw [herr] at hnone; cases hnone

/-! ### Steps of a waiting loop (R174, R191, R269) -/

/-- After the sample and after a wait comes the next read. -/
theorem resumeOp_loopHead {op : Op} {pt : Point} (h : pt = .sample ∨ pt = .wait) (s : State) :
    (resumeOp { op := op, pt := pt } s).seq.op = some { op := op, pt := loopHead op } := by
  rcases h with rfl | rfl <;> rfl

theorem loopHead_ne_sample (op : Op) : loopHead op ≠ .sample := by cases op <;> nofun

/-- A read of the loop that does not end the operation leaves the start of the wait. -/
theorem loop_read_t0 {a b c : State} {op : Op} {pt : Point} (hp : pt = .sample ∨ pt = .wait)
    (ha : a.seq.op = some { op := op, pt := pt }) (hab : step a = .next b) (hbc : step b = .next c)
    (hc : c.seq.op ≠ none) : c.seq.ctx.t0 = b.seq.ctx.t0 := by
  obtain rfl := eq_resumeOp_of_step ha hab
  obtain rfl := eq_resumeOp_of_step (resumeOp_loopHead hp a) hbc
  exact resumeOp_t0 (loopHead_ne_sample op) hc

/-- A timeout test that goes on is followed by the wait, and was within its bound. -/
theorem resumeOp_test_goesOn {op : Op} {s : State} (h : (resumeOp { op := op, pt := .test } s).seq.op ≠ none) :
    (resumeOp { op := op, pt := .test } s).seq.op = some { op := op, pt := .wait } ∧
      ¬ (0 < waitBound s.cfg op ∧
        waitBound s.cfg op < (resumeOp { op := op, pt := .test } s).clock - s.seq.ctx.t0) := by
  have hx : (atPoint op .test s).1 = _ := timeTest_exit (waitBound s.cfg op) s
  rw [resumeOp_test_clock]
  split_ifs at hx with hover
  · exact absurd (resumeOp_of_ret hx).1 h
  · exact ⟨resumeOp_op_of_goto hx, hover⟩

/-- Settles O51: the exits of the timeout test and of the poll, and `SEQ.T0` along the loop. -/
theorem timeoutComesOnlyAfterBound : Obligations.TimeoutComesOnlyAfterBound := by
  refine ⟨fun s t i hf h hnone => ?_, fun s t op pt ho h => ?_, fun a b c d op bound _ _ ha hab hbc hc hcd hlate => ?_,
    fun a b c d e op bound hb hpos ha hab hgo hbc hcd hd hde hlate => ?_⟩
  · obtain ⟨-, op, -, rfl⟩ := exec_of_request hf h
    exact (startOp_status_ne hnone).2
  · obtain rfl := eq_resumeOp_of_step ho h
    refine ⟨by rintro rfl; rfl, fun hp => ?_, resumeOp_t0, fun hp hnone hst => hp ((resumeOp_returnsAt hnone).2 hst),
      fun bound hb => ?_⟩
    · rw [resumeOp_loopHead hp]
      refine ⟨fun hne => ?_, fun a e => by rw [e]; rfl⟩
      cases op
      case bringUp a => exact absurd rfl (hne a)
      all_goals rfl
    · obtain rfl := waitBound_of_hasBound hb
      refine ⟨?_, ?_, ?_⟩
      · rintro rfl hover
        rw [resumeOp_test_clock] at hover
        exact resumeOp_of_ret ((timeTest_exit _ s).trans (if_pos hover))
      · rintro rfl hin
        rw [resumeOp_test_clock] at hin
        exact resumeOp_op_of_goto ((timeTest_exit _ s).trans (if_neg (by omega)))
      · rintro rfl
        obtain ⟨r, htr, htx, hr⟩ := poll_reads op s
        refine ⟨r, (settle_trace ..).trans htr, htx, fun herr => ?_⟩
        obtain ⟨b, u, hrx, hx⟩ := hr herr
        refine ⟨b, hrx, fun hbusy => resumeOp_op_of_goto (hx.trans (if_pos hbusy)), fun hready => ?_⟩
        rw [hready] at hx
        rcases whenReady_exit op u with e | e | e
        · exact .inl (resumeOp_of_ret (hx.trans e))
        · exact .inr (.inl (resumeOp_op_of_goto (hx.trans e)))
        · exact .inr (.inr (resumeOp_op_of_goto (hx.trans e)))
  · have ht0 := loop_read_t0 (.inl rfl) ha hab hbc (by rw [hc]; nofun)
    obtain rfl := eq_resumeOp_of_step ha hab
    have hstart : (resumeOp { op := op, pt := .sample } a).seq.ctx.t0 =
      (resumeOp { op := op, pt := .sample } a).clock := rfl
    omega
  · obtain rfl := waitBound_of_hasBound hb
    obtain rfl := eq_resumeOp_of_step ha hab
    obtain ⟨hwait, hin⟩ := resumeOp_test_goesOn hgo
    have hstart := resumeOp_t0 (s := a) (by nofun) hgo
    have ht0 := loop_read_t0 (.inr rfl) hwait hbc hcd (by rw [hd]; nofun)
    obtain rfl := eq_resumeOp_of_step hwait hbc
    have hstay : (resumeOp { op := op, pt := .wait } (resumeOp { op := op, pt := .test } a)).seq.ctx.t0 =
      (resumeOp { op := op, pt := .test } a).seq.ctx.t0 := rfl
    omega

/-! ### A wait without bound (R174, R270) -/

/-- Settles O52: the poll reads BUSY = 1, there is no bound to test, and the wait leads back to the poll. -/
theorem unboundedPollOfBusyDeviceWaits : Obligations.UnboundedPollOfBusyDeviceWaits := by
  intro s hv ho hb hn hbusy hdpd
  have hdev : devAtFrame s = s.dev := devAtFrame_of_incomplete hn.slot
  obtain ⟨v, b, hpoll, -, hran⟩ := poll_awake hv hb (hdev ▸ hdpd) (.busyPoll 0)
  rw [hdev] at hran hpoll
  rw [if_pos hbusy] at hpoll
  have hnever := hran.never hn
  refine ⟨v.withTask { op := .busyPoll 0, pt := .wait }, (v.waitPoll).withTask { op := .busyPoll 0, pt := .poll }, ?_,
    step_of_op (t := { op := .busyPoll 0, pt := .wait }) rfl, hran.cfg, rfl,
    hran.bus.of_tail rfl rfl, hnever.of_tail rfl rfl, ?_, hran.sent, ?_⟩
  · rw [step_of_op ho, resumeOp, hpoll]
    rfl
  · exact (devAtFrame_of_incomplete hnever.slot).trans hran.dev
  · have hclock := hran.clock
    rw [State.withTask_clock, State.waitPoll_clock, hran.cfg]
    omega

end Sys2Proof.Machine
end

section
/-! PROOFS. The requests that the spec gives no meaning (20_memory R75, 30_encoding R100, 41_seq_primitives R164). -/

namespace Sys2Proof.Machine

/-- A request has a next state or is refused: the hardware has no fault (R261). -/
theorem exec_refused_of_not_next {i : Instr} {s : State} (h : ∀ t, exec i s ≠ .next t) : ∃ r, exec i s = .refused r := by
  cases he : exec i s with
  | next t => exact absurd he (h t)
  | fault f => cases f
  | refused r => exact ⟨r, rfl⟩

/-- The codes of the table are 00 to 0D and 10 to 14 (R100). -/
theorem code_range (r : Req) : r.code.toNat ≤ 0x0D ∨ 0x10 ≤ r.code.toNat ∧ r.code.toNat ≤ 0x14 := by
  cases r <;> decide

theorem ofCode_outside {code : Byte} (h : code.toNat = 0x0E ∨ code.toNat = 0x0F ∨ 0x15 ≤ code.toNat) :
    Req.ofCode code = none := by
  cases hr : Req.ofCode code with
  | none => rfl
  | some r =>
    have hrange := code_range r
    rw [Req.code_of_ofCode hr] at hrange
    omega

/-- Settles O55, refusal by refusal. -/
theorem requestsWithoutMeaningAreRefused : Obligations.RequestsWithoutMeaningAreRefused := by
  refine ⟨fun s i hf ho => ?_, fun s code body later ho hi hcode => ?_, fun s a w src h => ?_, fun s b c h => ?_⟩
  · exact exec_refused_of_not_next fun t ht => ho (exec_of_request hf ht).1.1
  · have hd : decode s.cfg (.request (code :: body)) = .error (.unknownRequest code) :=
      decodeRequest_unknown s.cfg (ofCode_outside hcode) body
    rw [step_of_item ho hi]
    simp only [fetchItem, hd, rejected]
  · have hbig : ¬ fitsWord (wordBytes s.cfg w) = true := fun hfit => absurd (of_decide_eq_true hfit) h.not_gt
    exact ⟨if_neg hbig, if_neg hbig⟩
  · have hbig : ¬ fitsWord (blockByteAddr s.cfg b) = true := fun hfit => absurd (of_decide_eq_true hfit) h.not_gt
    exact ⟨if_neg hbig, if_neg hbig⟩

end Sys2Proof.Machine
end

section
/-! PROOFS. A transport failure ends every operation, but for the identifier check of the bring-up (41_seq_primitives R163,
42_seq_operations R190, R191, 60_exceptions R251): from what a step records, the step's exit is read off. -/

namespace Sys2Proof.Machine

/-! ### The frame of a step, failed or not (R163, R190) -/

/-- A step that records a failed frame leads where `failedExit` says. -/
theorem atPoint_of_failed_record {op : Op} {pt : Point} {s : State} {r : FrameRec} {e : BusError}
    (ht : (atPoint op pt s).2.trace = s.trace ++ [r]) (he : r.err = some e) :
    (atPoint op pt s).1 = failedExit s.cfg op pt e := by
  cases hp : sendsNothing pt with
  | true => simp [(atPoint_quiet hp).1] at ht
  | false =>
    obtain ⟨hdr, dout, nin, hf⟩ := exists_pointFrame op s hp
    obtain ⟨st, rx, hs⟩ := atPoint_frame hf
    rcases hs.recorded with ⟨-, -, tr⟩ | ⟨sent, e', -, hst, tr⟩ <;>
      obtain rfl : _ = r := List.singleton_inj.mp (List.append_cancel_left (tr.symm.trans ht))
    · cases he
    · obtain rfl := Option.some.inj he
      exact hs.failed e' hst

/-- A step whose frame fails by its slot records that failure. -/
theorem failed_record_of_frameStatus {op : Op} {pt : Point} {s : State} {hdr dout : List Byte} {nin : Nat} {e : BusError}
    (hf : pointFrame op pt s = some (hdr, dout, nin)) (he : frameStatus s.slot dout nin = .transportError e) :
    ∃ r, (atPoint op pt s).2.trace = s.trace ++ [r] ∧ r.err = some e := by
  obtain ⟨st, rx, hs⟩ := atPoint_frame hf
  have hst : st = .transportError e := hs.status.trans he
  rcases hs.recorded with ⟨-, hok, -⟩ | ⟨sent, e', -, hst', tr⟩
  · rw [hst] at hok; cases hok
  · obtain rfl : e = e' := Status.transportError.inj (hst.symm.trans hst')
    exact ⟨_, tr, rfl⟩

/-- No operation begins where a failed frame is answered by going on. -/
theorem failedExit_opening (p : Params) (op : Op) (e : BusError) :
    failedExit p op (opening op) e = .ret (.transportError e) := by
  refine failedExit_of_ne ?_
  cases op
  case bringUp => exact .inl nofun
  all_goals exact .inr nofun

/-- Settles O58: what the first step, or a later one, records is its own frame. -/
theorem transportFailureEndsOperation : Obligations.TransportFailureEndsOperation := by
  refine ⟨fun s t i hf h r hr e he => ?_, fun s t op pt r e ho h htr he => ?_, fun s task e ho hsends he => ?_⟩
  · obtain ⟨-, op, -, rfl⟩ := exec_of_request hf h
    rcases startOp_cases op (s.lend (inputBuffer i s)) with ⟨-, hstart⟩ | ⟨-, hstart⟩ <;> rw [hstart] at hr ⊢
    · have hlen := atPoint_trace_length_le op (opening op) (accepted i op s)
      rw [settle_trace] at hr
      obtain ⟨r', hr'⟩ : ∃ r', (atPoint op (opening op) (accepted i op s)).2.trace = [r'] :=
        List.length_eq_one_iff.mp (le_antisymm hlen (List.length_pos_of_mem hr))
      obtain rfl : r = r' := List.mem_singleton.mp (hr' ▸ hr)
      exact resumeOp_of_ret ((atPoint_of_failed_record hr' he).trans (failedExit_opening ..))
    · cases hr
  · obtain rfl := eq_resumeOp_of_step ho h
    have hx := atPoint_of_failed_record ((settle_trace ..).symm.trans htr) he
    refine ⟨fun hne => resumeOp_of_ret (hx.trans (failedExit_of_ne hne.symm)), ?_⟩
    rintro a rfl rfl
    exact resumeOp_op_of_goto hx
  · obtain ⟨op, pt⟩ := task
    obtain ⟨hdr, dout, nin, hf⟩ := exists_pointFrame op s hsends
    obtain ⟨r, htr, hr⟩ := failed_record_of_frameStatus hf (e := e) (by simp only [frameStatus, he])
    exact ⟨_, r, step_of_op ho, (settle_trace ..).trans htr, hr⟩

/-! ### The first frame of a request (R163, R165) -/

/-- A request that reads starts the read of its operands (R193, R231). -/
theorem requestOp_of_readOperands {p : Params} {i : Instr} {ad : Bool} {addr : Word} {n : Nat}
    (h : readOperands p i = some (ad, addr, n)) :
    ∃ size : Word, requestOp p i = some (.read ad addr size) ∧ size.toNat = n := by
  cases i <;> simp only [readOperands, reduceCtorEq, Option.some.injEq, Prod.mk.injEq] at h
  case reqRead => obtain ⟨rfl, rfl, rfl⟩ := h; exact ⟨_, rfl, rfl⟩
  case reqBlockRead =>
    split_ifs at h with hfit
    simp only [Option.some.injEq, Prod.mk.injEq] at h
    obtain ⟨rfl, rfl, rfl⟩ := h
    exact ⟨_, if_pos (decide_eq_true hfit), (BitVec.toNat_ofNat ..).trans (Nat.mod_eq_of_lt hfit)⟩

/-- A request that erases starts the erase of its operands (R204, R233). -/
theorem requestOp_of_eraseOperands {p : Params} {i : Instr} {ad : Bool} {addr : Word}
    (h : eraseOperands p i = some (ad, addr)) : requestOp p i = some (.eraseSector ad addr) := by
  cases i <;> simp only [eraseOperands, reduceCtorEq, Option.some.injEq, Prod.mk.injEq] at h
  case reqEraseSector => obtain ⟨rfl, rfl⟩ := h; rfl
  case reqBlockErase =>
    split_ifs at h with hfit
    simp only [Option.some.injEq, Prod.mk.injEq] at h
    obtain ⟨rfl, rfl⟩ := h
    exact if_pos (decide_eq_true hfit)

/-- A request that checks a sector starts the check of its operands (R205, R234). -/
theorem requestOp_of_verifyOperands {p : Params} {i : Instr} {ad : Bool} {addr : Word}
    (h : verifyOperands p i = some (ad, addr)) : requestOp p i = some (.verifySectorErased ad addr) := by
  cases i <;> simp only [verifyOperands, reduceCtorEq, Option.some.injEq, Prod.mk.injEq] at h
  case reqVerifySectorErased => obtain ⟨rfl, rfl⟩ := h; rfl
  case reqBlockEraseVerify =>
    split_ifs at h with hfit
    simp only [Option.some.injEq, Prod.mk.injEq] at h
    obtain ⟨rfl, rfl⟩ := h
    exact if_pos (decide_eq_true hfit)

/-- The operation `op` of the request `i` begins with a frame, and `firstFrameError` asks of its data phase what the frame
has (R163, R165). -/
def OpensAs (p : Params) (i : Instr) (op : Op) : Prop :=
  requestOp p i = some op ∧ rightlyAligned p op = true ∧ ∀ s : State, s.cfg = p →
    ∃ hdr dout nin, pointFrame op (opening op) s = some (hdr, dout, nin) ∧
      (opensWithData p i = true ↔ ¬ (dout = [] ∧ nin = 0))

theorem opensAs_of_opensWithFrame {p : Params} (hv : validParams p = true) {i : Instr} (h : opensWithFrame p i = true) :
    ∃ op, OpensAs p i op := by
  have hslice : p.verifySlice ≠ 0 := (paramFacts hv).slice_pos.ne'
  have reads : ∀ {i}, (readOperands p i).isSome = true →
      (opensWithData p i = (readOperands p i).any fun o => decide (o.2.2 ≠ 0)) → ∃ op, OpensAs p i op := by
    intro i h hd
    obtain ⟨⟨ad, addr, n⟩, ho⟩ := Option.isSome_iff_exists.mp h
    obtain ⟨size, hop, rfl⟩ := requestOp_of_readOperands ho
    exact ⟨_, hop, rfl, fun s hs => ⟨_, _, _, rfl, by simp [hd, ho, opRange]⟩⟩
  have writes : ∀ {i}, (writeOperands p i).isSome = true → opensWithData p i = false → ∃ op, OpensAs p i op := by
    intro i h hd
    obtain ⟨⟨ad, addr, n, buf⟩, ho⟩ := Option.isSome_iff_exists.mp h
    obtain ⟨-, size, hop, -, -⟩ := requestOp_of_writeOperands (s := { State.reset with cfg := p }) ho
    refine ⟨_, hop, rfl, fun s hs => ?_⟩
    rcases chunkPoint_cases size with hc | hc <;> rw [opening, hc] <;> exact ⟨_, _, _, rfl, by simp [hd]⟩
  have erases : ∀ {i}, (eraseOperands p i).any (fun o => sectorAligned p o.2) = true → opensWithData p i = false →
      ∃ op, OpensAs p i op := by
    intro i h hd
    obtain ⟨⟨ad, addr⟩, ho, hal⟩ := (Option.any_eq_true ..).mp h
    exact ⟨_, requestOp_of_eraseOperands ho, hal, fun s hs => ⟨_, _, _, rfl, by simp [hd]⟩⟩
  have verifies : ∀ {i}, (verifyOperands p i).any (fun o => sectorAligned p o.2) = true → opensWithData p i = true →
      ∃ op, OpensAs p i op := by
    intro i h hd
    obtain ⟨⟨ad, addr⟩, ho, hal⟩ := (Option.any_eq_true ..).mp h
    exact ⟨_, requestOp_of_verifyOperands ho, hal, fun s hs => ⟨_, _, _, rfl, by simp [hd, hs, hslice]⟩⟩
  cases i <;> simp only [opensWithFrame, Bool.false_eq_true] at h
  case reqRead => exact reads rfl rfl
  case reqBlockRead => exact reads h rfl
  case reqWrite | reqBlockWrite => exact writes h rfl
  case reqEraseSector | reqBlockErase => exact erases h rfl
  case reqVerifySectorErased | reqBlockEraseVerify => exact verifies h rfl
  all_goals exact ⟨_, rfl, rfl, fun s hs => ⟨_, _, _, rfl, by simp [opensWithData]⟩⟩

/-- Settles O41: the first step sends the frame, which fails in the call that its slot says. -/
theorem firstFrameFailureEndsRequest : Obligations.FirstFrameFailureEndsRequest := by
  intro s i e hr hopens he
  obtain ⟨op, hop, hal, hframe⟩ := opensAs_of_opensWithFrame hr.2.2 hopens
  obtain ⟨hdr, dout, nin, hf, hdata⟩ := hframe (accepted i op s) rfl
  have hst : frameStatus s.slot dout nin = .transportError e := by
    unfold firstFrameError at he
    unfold frameStatus
    cases hh : s.slot.hdrErr with
    | some e' => simpa [hh] using he
    | none =>
      rw [hh] at he
      by_cases hd : opensWithData s.cfg i = true
      · rw [if_neg (hdata.mp hd)]
        simp only [if_pos hd] at he
        simp only [he]
      · simp only [if_neg hd, reduceCtorEq] at he
  obtain ⟨r, htr, hrec⟩ := failed_record_of_frameStatus hf (e := e) hst
  obtain ⟨_, _, hs⟩ := atPoint_frame hf
  have hx := (atPoint_of_failed_record htr hrec).trans (failedExit_opening ..)
  have hk := atPoint_rests op (opening op) (accepted i op s)
  refine ⟨_, exec_of_op hr hop, ?_⟩
  rcases startOp_cases op (s.lend (inputBuffer i s)) with ⟨-, hstart⟩ | ⟨hmis, -⟩
  · obtain ⟨hnone, hret⟩ := resumeOp_of_ret hx
    rw [hstart]
    exact ⟨⟨hnone, settle_idle _ (hk.idle hr.2.1), (settle_sel ..).trans hs.sel, hret⟩,
      congrArg List.length ((settle_trace ..).trans htr),
      (settle_cfg ..).trans hk.cfg, (settle_inbox ..).trans hk.inbox, (settle_rest ..).trans hk.rest,
      (settle_geometry ..).trans hk.geo, (settle_inp ..).trans hk.inp⟩
  · rw [State.lend_cfg, hal] at hmis; cases hmis

end Sys2Proof.Machine
end

section
/-! PROOFS. What an operation returns (42_seq_operations R206): each status but `Ok` and a transport error comes from the
points of one kind, and only the operations whose row says yes have such a point. And the identifier wait of the bring-up,
step by step (R176, R191). -/

namespace Sys2Proof.Machine

/-! ### The statuses of each point (R206) -/

/-- The exits that return: which points return a status other than `Ok`, transport failures apart. -/
theorem ret_mem_exits {p : Params} {op : Op} {pt : Point} {st : Status} (h : Exit.ret st ∈ exits p op pt) :
    st = .ok ∨ (st = .protocolViolation ∧ (pt = .latch ∨ pt = .cleared)) ∨ (st = .timeout ∧ pt = .test) ∨
      (st = .verificationFailure ∧ (pt = .readBack ∨ pt = .slice ∨ pt = .identify ∧ ∀ a, op ≠ .bringUp a)) := by
  have only : ∀ {x : Exit}, Unconfined x → Exit.ret st = x → st = .ok := by
    rintro x (rfl | ⟨pt', rfl, -⟩) hx
    · exact Exit.ret.inj hx
    · cases hx
  cases pt
  case rst => exact .inl (only (afterReset_unconfined op) (List.mem_singleton.mp h))
  case enable => exact .inl (only (afterEnable_unconfined op) (List.mem_singleton.mp h))
  case command => exact .inl (only (afterCommand_unconfined p op) (List.mem_singleton.mp h))
  case disable => exact .inl (only (afterDisable_unconfined p op) (List.mem_singleton.mp h))
  case cleared =>
    rcases List.mem_pair.mp h with h | h
    · exact .inl (only (afterCleared_unconfined p op) h)
    · exact .inr (.inl ⟨Exit.ret.inj h, .inr rfl⟩)
  case identify | poll => cases op <;> simp_all [exits]
  all_goals simp_all [exits]

/-- The operations that stand at a check of the latch, at the timeout test, or where bytes are compared (R165). -/
theorem checksLatch_of_ownPoint {p : Params} {op : Op} {pt : Point} (h : ownPoint p op pt = true)
    (hp : pt = .latch ∨ pt = .cleared) : checksLatch (requestOf op) = true := by
  cases op
  case bringUp | write | eraseSector | writeStatus | unlockAllBlocks => rfl
  all_goals rcases hp with rfl | rfl <;> cases h

theorem hasBoundedWait_of_ownPoint {p : Params} {op : Op} (h : ownPoint p op .test = true) :
    hasBoundedWait (requestOf op) = true := by
  cases op
  case bringUp | write | eraseSector | busyPoll => rfl
  all_goals cases h

theorem comparesBytes_of_ownPoint {p : Params} {op : Op} {pt : Point} (h : ownPoint p op pt = true)
    (hp : pt = .readBack ∨ pt = .slice ∨ pt = .identify ∧ ∀ a, op ≠ .bringUp a) :
    comparesBytes p (requestOf op) = true := by
  cases op
  case verifySectorErased | checkId => rfl
  case write =>
    rcases hp with rfl | rfl | ⟨rfl, -⟩
    · exact h
    · cases h
    · cases h
  case bringUp a =>
    rcases hp with rfl | rfl | ⟨-, hne⟩
    · cases h
    · cases h
    · exact absurd rfl (hne a)
  all_goals rcases hp with rfl | rfl | ⟨rfl, -⟩ <;> cases h

/-- A step that returns, at a point of the operation's own, returns a status of its row. -/
theorem mayReturn_of_atPoint {op : Op} {pt : Point} {s : State} {st : Status} (ho : ownPoint s.cfg op pt = true)
    (hx : (atPoint op pt s).1 = .ret st) : mayReturn s.cfg (requestOf op) st = true := by
  rcases atPoint_exit op pt s with h | ⟨-, e, h⟩
  · rw [hx] at h
    rcases ret_mem_exits h with rfl | ⟨rfl, hp⟩ | ⟨rfl, rfl⟩ | ⟨rfl, hp⟩
    · rfl
    · exact checksLatch_of_ownPoint ho hp
    · exact hasBoundedWait_of_ownPoint ho
    · exact comparesBytes_of_ownPoint ho hp
  · obtain rfl := Exit.ret.inj (hx.symm.trans h)
    rfl

theorem resumeOp_mayReturn {op : Op} {pt : Point} {s : State} (ho : ownPoint s.cfg op pt = true)
    (hn : (resumeOp { op := op, pt := pt } s).seq.op = none) :
    mayReturn s.cfg (requestOf op) (resumeOp { op := op, pt := pt } s).seq.st = true := by
  rcases resumeOp_cases op pt s with ⟨st, hx, -, rfl⟩ | ⟨pt', -, hgo, -⟩
  · exact mayReturn_of_atPoint ho hx
  · rw [hn] at hgo; cases hgo

/-- A request has the row of the operation it starts, an adapter operation that of the one it delegates to (R230). -/
theorem mayReturn_requestOf {p : Params} {i : Instr} {op : Op} (h : requestOp p i = some op) (st : Status) :
    mayReturn p (requestOf op) st = mayReturn p i st := by
  cases i <;> simp only [requestOp, reduceCtorEq, Option.ite_none_right_eq_some, Option.ite_none_left_eq_some,
    Option.some.injEq] at h
  case reqWrite => obtain ⟨-, rfl⟩ := h; rfl
  case reqBlockRead => obtain ⟨-, rfl⟩ := h; rfl
  case reqBlockWrite => obtain ⟨-, -, rfl⟩ := h; rfl
  case reqBlockErase => obtain ⟨-, rfl⟩ := h; rfl
  case reqBlockEraseVerify => obtain ⟨-, rfl⟩ := h; rfl
  all_goals subst h; rfl

theorem checksAlignment_of_misaligned {p : Params} {op : Op} (h : rightlyAligned p op = false) :
    checksAlignment (requestOf op) = true := by
  cases op
  case eraseSector | verifySectorErased => rfl
  all_goals cases h

/-- Settles O54: what returns in the first step is the alignment test or the point the operation begins at. -/
theorem statusesAreThoseOfTheTable : Obligations.StatusesAreThoseOfTheTable := by
  refine ⟨fun s t i hf h hn => ?_, fun s t task hown ho h hn => ?_⟩
  · obtain ⟨-, op, hop, rfl⟩ := exec_of_request hf h
    rw [← mayReturn_requestOf hop]
    rcases startOp_cases op (s.lend (inputBuffer i s)) with ⟨-, e⟩ | ⟨hmis, e⟩ <;> rw [e] at hn ⊢
    · exact resumeOp_mayReturn (s := accepted i op s) (ownPoint_opening s.cfg op) hn
    · exact checksAlignment_of_misaligned hmis
  · obtain rfl := eq_resumeOp_of_step ho h
    exact resumeOp_mayReturn hown hn

/-! ### The identifier wait (R176, R191) -/

/-- The identifier check of the bring-up: the unlock after a match, and after every failure the loop goes on. -/
theorem identify_bringUp (ad : Bool) (s : State) :
    (atPoint (.bringUp ad) .identify s).1 = if (checkId s).st = .ok then .goto .enable else .goto (notYet s.cfg.tInitMs) := by
  show (identifyStep (.bringUp ad) s).1 = _
  unfold identifyStep
  dsimp only
  split <;> simp_all [waitBound]

/-- The check returns `Ok` exactly when its frame does and the bytes received are `EXPECTED_ID`. -/
theorem checkId_ok_iff (s : State) :
    (checkId s).st = .ok ↔ (seqFrame [s.cfg.ops.rdid] [] 3 s).st = .ok ∧
      (seqFrame [s.cfg.ops.rdid] [] 3 s).rx = idBytes s.cfg.expectedId := by
  obtain ⟨-, hrx, ⟨hst, hid⟩ | ⟨hok, hst, hid⟩⟩ := checkId_of s <;> rw [← hrx, hst]
  · exact ⟨fun h => ⟨h, hid (hst.trans h)⟩, And.left⟩
  · exact ⟨nofun, fun h => absurd h.2 hid⟩

/-- The identifier check records its one frame, and matched when no call failed and the bytes are `EXPECTED_ID`. -/
theorem checkId_record (s : State) :
    ∃ r, (checkId s).s.trace = s.trace ++ [r] ∧ r.tx = [s.cfg.ops.rdid] ∧
      ((checkId s).st = .ok ↔ r.err = none ∧ r.rx = idBytes s.cfg.expectedId) := by
  rw [(checkId_of s).1, checkId_ok_iff]
  rcases seqFrame_recorded [s.cfg.ops.rdid] [] 3 s with ⟨-, hst, tr⟩ | ⟨sent, e, hsent, hst, tr⟩ <;>
    refine ⟨_, tr, ?_, ?_⟩
  · rfl
  · simp [hst]
  · rcases hsent with rfl | rfl <;> rfl
  · simp [hst]

theorem atPoint_test_ctx (op : Op) (s : State) : (atPoint op .test s).2.seq.ctx = s.seq.ctx := by
  simp only [atPoint, timeTest]
  split_ifs <;> rfl

/-- Settles O50, one step for each of the three points of the loop. -/
theorem identifierWaitRepeatsUntilMatch : Obligations.IdentifierWaitRepeatsUntilMatch := by
  refine fun s ad => ⟨fun ho => ?_, fun ho => ?_, fun ho => ?_⟩
  · obtain ⟨r, htr, htx, hok⟩ := checkId_record s
    have hx := identify_bringUp ad s
    refine ⟨_, r, step_of_op ho, ?_, htx, fun hmatch => ?_, fun hfail => ?_⟩
    · rw [resumeOp, settle_trace]
      exact (congrArg State.trace (identifyStep_of (.bringUp ad) s).1).trans htr
    · exact resumeOp_op_of_goto (hx.trans (if_pos (hok.mpr hmatch)))
    · exact resumeOp_op_of_goto (hx.trans (if_neg fun h => (not_and_or.mpr hfail) (hok.mp h)))
  · have hx : (atPoint (.bringUp ad) .test s).1 = _ := timeTest_exit s.cfg.tInitMs s
    refine ⟨_, step_of_op ho, (settle_trace ..).trans (atPoint_quiet rfl).1, fun hover => ?_, fun hin => ?_⟩
    · rw [resumeOp_test_clock] at hover
      exact resumeOp_of_ret (hx.trans (if_pos (by omega)))
    · rw [resumeOp_test_clock] at hin
      have hgo := hx.trans (if_neg (by omega))
      obtain ⟨st, hret, -⟩ | ⟨pt, -, -, hctx⟩ := resumeOp_cases (.bringUp ad) .test s
      · rw [hgo] at hret; cases hret
      · exact ⟨resumeOp_op_of_goto hgo, hctx.trans (atPoint_test_ctx ..)⟩
  · refine ⟨_, step_of_op ho, rfl, ?_, rfl, rfl⟩
    show _ ≤ s.waitPoll.clock
    rw [State.waitPoll_clock]
    omega

end Sys2Proof.Machine
end

section
/-! PROOFS. The device software reset as an operation sends it, RSTEN then RST (10_state R46, 42_seq_operations R192), and
the bring-up of a device that answers its identifier (R191, 43_block_adapter R235, 70_reset_and_hazards R282). -/

namespace Sys2Proof.Machine

/-! ### A software reset within an operation (R46) -/

/-- The device `e` comes from `d` by at most the completion of what is in flight and a write of `DEV.ARM`: of the array only
the target of what was in flight may differ (R37, R39). -/
structure OnlyCompletes (d e : Dev) : Prop extends SameParts d e where
  ac     : e.ac = d.ac
  dpd    : e.dpd = d.dpd
  wf     : Memory.wf d.mem = true → Memory.wf e.mem = true
  target : ∀ x, pendTarget e.pend x → pendTarget d.pend x
  mem    : Memory.wf d.mem = true → ∀ x, ¬ pendTarget d.pend x → memRead e.mem x = memRead d.mem x

theorem OnlyCompletes.trans {d e f : Dev} (h : OnlyCompletes d e) (g : OnlyCompletes e f) : OnlyCompletes d f where
  toSameParts := h.toSameParts.trans g.toSameParts
  ac := g.ac.trans h.ac
  dpd := g.dpd.trans h.dpd
  wf := g.wf ∘ h.wf
  target x := h.target x ∘ g.target x
  mem hw x hx := (g.mem (h.wf hw) x (mt (h.target x) hx)).trans (h.mem hw x hx)

theorem onlyCompletes_arm (d : Dev) (b : Bool) : OnlyCompletes d { d with arm := b } :=
  ⟨⟨rfl, rfl, rfl, rfl⟩, rfl, rfl, id, fun _ => id, fun _ _ _ => rfl⟩

theorem wf_engineComplete {d : Dev} (h : Memory.wf d.mem = true) : Memory.wf (engineComplete d).mem = true := by
  unfold engineComplete
  split
  · exact h
  · exact wf_memProgram _ h _
  · exact wf_memErase h _ _

theorem engineComplete_onlyCompletes (d : Dev) : OnlyCompletes d (engineComplete d) where
  toSameParts := engineComplete_sameParts d
  ac := engineComplete_ac d
  dpd := engineComplete_dpd d
  wf := wf_engineComplete
  target x hx := by rw [engineComplete_pend] at hx; exact hx.elim
  mem hw _ hx := memRead_engineComplete hw hx

theorem devAtFrame_onlyCompletes (s : State) : OnlyCompletes s.dev (devAtFrame s) := by
  unfold devAtFrame
  split_ifs
  · exact engineComplete_onlyCompletes _
  · exact onlyCompletes_arm _ s.dev.arm

@[simp] theorem devAtFrame_arm (s : State) : (devAtFrame s).arm = s.dev.arm := by
  unfold devAtFrame
  split_ifs
  · exact engineComplete_arm _
  · rfl

/-- What a software reset leaves: of a device in which at most what was in flight has completed, it leaves the same fields
as of the device before, but for the array (R46). -/
theorem softwareReset_eq {p : Params} {k : Nat} {d e : Dev} (h : OnlyCompletes d e) :
    softwareReset p k e = { d with
      busy := false, wel := false, arm := false, dpd := false, pend := .none, prot := resetProtection p,
      cr := Config.freeConfigReg k, mem := abortedMem k e } := by
  simp only [softwareReset, h.aux, h.id, h.sfdp, h.sid, h.ac]

/-- A step that sends one of the frames a busy device accepts, on a device that is not in deep power-down (R138). -/
theorem sendFrame_acceptedBusy {s : State} (hb : BusOk s) (hd : s.dev.dpd = false) {hdr dout : List Byte} {i : Instr}
    (x : Exit) (hi : decodeFrame s.cfg.ops (hdr ++ dout) 0 = .ok i) (hw : i.wf s.cfg = true) (ha : acceptedBusy i = true) :
    ∃ t, sendFrame hdr dout x s = (x, t) ∧
      Ran s t (ownRule s.cfg s.draw s.dev.arm i { devAtFrame s with arm := isRsten i }).dev [hdr ++ dout] := by
  obtain ⟨hst, -, -, hran⟩ := seqFrame_ran hb hi
  rw [devFrame_accepted ⟨.inl ((devAtFrame_dpd s).trans hd), .inr ha⟩ hw, devAtFrame_arm] at hran
  exact ⟨_, onOk_ok hst _, hran⟩

/-- The two frames of a reset, on a device that is not in deep power-down, busy or not (R46, R138, R192). -/
theorem Reaches.reset {s : State} (hv : validParams s.cfg = true) (hb : BusOk s) (hd : s.dev.dpd = false) (op : Op) :
    ∃ t c m,
      Reaches { op := op, pt := .rsten } s (afterReset op) t
        { s.dev with
          busy := false, wel := false, arm := false, dpd := false, pend := .none, prot := resetProtection s.cfg, cr := c,
          mem := m }
        [[s.cfg.ops.rsten], [s.cfg.ops.rst]] ∧
      (Memory.wf s.dev.mem = true → ∀ x, ¬ pendTarget s.dev.pend x → memRead m x = memRead s.dev.mem x) := by
  obtain ⟨t1, e1, g1⟩ := sendFrame_acceptedBusy hb hd (.goto .rst) (decode_rsten hv) rfl rfl
  set s1 := t1.withTask { op := op, pt := .rst }
  have f1 : s1.cfg = s.cfg := g1.cfg
  have d1 : s1.dev = { devAtFrame s with arm := true } := g1.dev
  have o1 : OnlyCompletes s.dev s1.dev := d1 ▸ (devAtFrame_onlyCompletes s).trans (onlyCompletes_arm _ true)
  have o2 := (o1.trans (devAtFrame_onlyCompletes s1)).trans (onlyCompletes_arm _ false)
  obtain ⟨t2, e2, g2⟩ := sendFrame_acceptedBusy (s := s1) g1.bus (o1.dpd.trans hd) (afterReset op)
    (decode_rst (f1 ▸ hv)) rfl rfl
  have hown : (ownRule s1.cfg s1.draw s1.dev.arm .rst { devAtFrame s1 with arm := false }).dev =
      softwareReset s.cfg s1.draw { devAtFrame s1 with arm := false } := by rw [f1, d1]; rfl
  have r := (Reaches.one (op := op) (pt := .rsten) e1 g1).andThen (.one e2 g2)
  rw [show isRsten .rst = false from rfl, hown, softwareReset_eq o2, f1] at r
  exact ⟨t2, _, _, r, fun hw x hx => (memRead_abortedMem _ (o2.wf hw) (mt (o2.target x) hx)).trans (o2.mem hw x hx)⟩

/-- Settles O39: nothing is in flight in the array but the target of what was, before the reset and after. -/
theorem resetRequestResetsDevice : Obligations.ResetRequestResetsDevice := by
  intro s hr hb hd hw
  obtain ⟨t, c, m, h, hmem⟩ := Reaches.reset (s := accepted .reqReset .reset s) hr.2.2 hb hd .reset
  exact ⟨c, m, resetProtection s.cfg, requestGives_of_reaches (op := .reset) hr rfl rfl (.inr (List.cons_ne_nil _ _)) h,
    fun x => protAt_resetProtection s.cfg, hmem hw⟩

/-! ### The bring-up (R191, R282) -/

theorem requestOp_of_bringUp {p : Params} {i : Instr} {ad : Bool} (h : bringUp i = some ad) :
    requestOp p i = some (.bringUp ad) := by
  cases i <;> simp only [bringUp, reduceCtorEq, Option.some.injEq] at h
  case reqInitialize | reqSystemError => subst h; rfl

/-- The identifier check of the bring-up on a listening device that answers `EXPECTED_ID` (R131, R176). -/
theorem identify_listening {s : State} (hv : validParams s.cfg = true) (hb : BusOk s) (hl : Listening s.dev)
    (hid : s.dev.id = s.cfg.expectedId) (ad : Bool) :
    ∃ t, atPoint (.bringUp ad) .identify s = (.goto .enable, t) ∧ Ran s t { s.dev with arm := false } [[s.cfg.ops.rdid]] := by
  obtain ⟨hst, hrx, -, hran⟩ := seqFrame_ran hb (decode_rdid hv)
  rw [hl.at_frame, devFrame_accepted (hl.accepts _) rfl] at hrx hran
  have hmatch : (seqFrame [s.cfg.ops.rdid] [] 3 s).rx = idBytes s.cfg.expectedId := hrx.trans (congrArg idBytes hid)
  refine ⟨_, Prod.ext ?_ ((identifyStep_of (.bringUp ad) s).1.trans (checkId_of s).1), hran⟩
  rw [identify_bringUp, if_pos ((checkId_ok_iff s).mpr ⟨hst, hmatch⟩)]

/-- The bring-up after its reset: the wait ends with the first check, and the blocks are unlocked (R177, R191). -/
theorem Reaches.identified {s : State} (hv : validParams s.cfg = true) (hb : BusOk s) (hl : Listening s.dev)
    (hid : s.dev.id = s.cfg.expectedId) (ad : Bool) :
    ∃ t, Reaches { op := .bringUp ad, pt := .sample } s (.ret .ok) t
      { s.dev with arm := false, prot := [], wel := false }
      ([[s.cfg.ops.rdid], [s.cfg.ops.wren], [s.cfg.ops.rdsr], [s.cfg.ops.ulbpr]] ++ clearedFrame s.cfg) := by
  have r1 : Reaches { op := .bringUp ad, pt := .sample } s (.goto .identify) s.sampleT0 s.dev [] :=
    hl.at_frame ▸ .one rfl (Ran.sampleT0 hb)
  set s1 := s.sampleT0.withTask { op := .bringUp ad, pt := .identify }
  have d1 : s1.dev = s.dev := r1.ran.dev
  obtain ⟨t2, e2, g2⟩ := identify_listening (s := s1) hv r1.ran.bus (d1 ▸ hl) (d1 ▸ hid) ad
  rw [d1] at g2
  set s2 := t2.withTask { op := .bringUp ad, pt := .enable }
  have d2 : s2.dev = { s.dev with arm := false } := g2.dev
  have f2 : s2.cfg = s.cfg := g2.cfg
  have v2 : validParams s2.cfg = true := f2 ▸ hv
  have l2 : Listening s2.dev := d2 ▸ hl
  have c2 : latchCommand s2 (.bringUp ad) = ([s.cfg.ops.ulbpr], []) := by simp only [latchCommand, f2]
  obtain ⟨t3, k, b, -, r3⟩ := Reaches.latched (s := s2) (op := .bringUp ad) v2 g2.bus l2 rfl
    (fun _ _ hc _ _ => by simp only [latchCommand, hc]) (decode_ulbpr v2) rfl
  obtain ⟨t4, -, r4, -⟩ := r3.cleared v2 l2 rfl rfl
  rw [d2, f2, c2] at r4
  exact ⟨t4, (r1.andThen (.one e2 g2)).andThen r4⟩

/-- Settles O53: the reset, then the wait that ends at once, then the unlock. -/
theorem bringUpResetsAndUnlocks : Obligations.BringUpResetsAndUnlocks := by
  intro s i ad hi hr hb hd hid hw
  have hv := hr.2.2
  obtain ⟨t, c, m, r1, hmem⟩ := Reaches.reset (s := accepted i (.bringUp ad) s) hv hb hd (.bringUp ad)
  set s1 := t.withTask { op := .bringUp ad, pt := .sample }
  have f1 : s1.cfg = s.cfg := r1.ran.cfg
  have d1 : s1.dev = _ := r1.ran.dev
  obtain ⟨u, r2⟩ := Reaches.identified (s := s1) (f1 ▸ hv) r1.ran.bus (by rw [d1]; exact ⟨rfl, rfl, rfl⟩)
    (by rw [d1, f1]; exact hid) ad
  rw [d1, f1] at r2
  exact ⟨c, m, [], requestGives_of_reaches (op := .bringUp ad) hr (requestOp_of_bringUp hi) rfl
    (.inr (List.cons_ne_nil _ _)) (r1.andThen r2), protAt_nil, hmem hw⟩

end Sys2Proof.Machine
end

section
/-! PROOFS. Reads, erases and erase checks: the one frame of `read` (42_seq_operations R193), the erase of a sector by an
eager device (R204), and the slices of the erase check up to the first byte that is not erased (R205). -/

namespace Sys2Proof.Machine

/-! ### `read` and `blockRead` (R193, R231) -/

/-- A read in a slot in which nothing fails, of a device that is neither busy nor in deep power-down (R129, R193). -/
theorem readRange_of_noError {s : State} (hv : validParams s.cfg = true) (hs : s.slot.noError)
    (hb : (devAtFrame s).busy = false) (hd : (devAtFrame s).dpd = false) (a : Word) (n : Nat) :
    ∃ c, (readRange a n s).st = .ok ∧
      (readRange a n s).rx = readBytes (devAtFrame s).mem s.cfg.deviceSize (deviceAddr s.cfg (maskAddr a)) n ∧
      (readRange a n s).s.dev = { devAtFrame s with arm := false, ac := c } := by
  obtain ⟨hst, hrx, hdev, -⟩ :=
    seqFrame_command (s := s.withCtx { s.seq.ctx with a := a }) hs (decode_read (p := s.cfg) hv a n)
  have ha : devFrame s.cfg s.draw (.read (maskAddr a) n) (devAtFrame s) = _ :=
    devFrame_accepted (accepts_of_available hb hd _) rfl
  exact ⟨_, hst, hrx.trans (congrArg Answer.rx ha), hdev.trans (congrArg Answer.dev ha)⟩

/-- Settles O40: the bytes of the frame are delivered as they come. -/
theorem readRequestsDeliverArray : Obligations.ReadRequestsDeliverArray := by
  intro s i ad addr n hi hr hs hb hd
  obtain ⟨size, hop, rfl⟩ := requestOp_of_readOperands hi
  obtain ⟨c, hst, hrx, hdev⟩ :=
    readRange_of_noError (s := accepted i (.read ad addr size) s) hr.2.2 hs hb hd addr size.toNat
  refine ⟨c, _, requestGivesAtOnce_of_frame (op := .read ad addr size) hr hop rfl rfl hs.1 hs.2.1
    (congrArg Exit.ret hst) hdev hrx, readBytes_length .., fun j hj => ?_⟩
  rw [readBytes_getElem? _ _ _ hj, deviceAddr_mask, Nat.mod_add_mod]
  rfl

/-! ### `eraseSector` and `blockErase` (R204, R233) -/

/-- An address keeps its place in its sector when it is masked and reduced to the array (R61, R97). -/
theorem deviceAddr_mod_sector {p : Params} (hF : ParamFacts p) (addr : Word) :
    deviceAddr p (maskAddr addr) % p.sectorSize = addr.toNat % p.sectorSize := by
  rw [deviceAddr_mask, Nat.mod_mod_of_dvd _ (Nat.dvd_of_mod_eq_zero hF.size_sector),
    Nat.mod_mod_of_dvd _ (Nat.dvd_of_mod_eq_zero hF.sector_div)]

theorem rangeProtected_of_unprotected {d : Dev} {lo hi : Nat} (h : Unprotected d lo hi) :
    rangeProtected d.prot lo hi = false := by
  by_contra hp
  obtain ⟨x, hlo, hhi, hx⟩ := (rangeProtected_iff ..).mp (eq_true_of_ne_false hp)
  rw [h x hlo hhi] at hx
  cases hx

/-- A sector-erase frame starts an erase on a device whose latch is set, when the sector is aligned and unprotected (R135). -/
theorem devSe_starts {p : Params} (hF : ParamFacts p) (k : Nat) {addr : Word} {d : Dev} (hw : d.wel = true)
    (hal : addr.toNat % p.sectorSize = 0)
    (hp : Unprotected d (sectorOf p addr) (sectorOf p addr + p.sectorSize)) :
    (devSe p k (maskAddr addr) d).dev =
      { d with pend := .erase (sectorOf p addr) (sectorOf p addr + p.sectorSize), busy := true } := by
  have hlo : deviceAddr p (maskAddr addr) = sectorOf p addr := deviceAddr_mask addr
  have hmod := (deviceAddr_mod_sector hF addr).trans hal
  rw [hlo] at hmod
  simp only [devSe, startErase, answer, hlo, hw, hmod, rangeProtected_of_unprotected hp, if_true, ne_eq, not_true,
    decide_false, Bool.and_false, Bool.false_eq_true, if_false]

/-- The end of a write or an erase on a listening device: the latch is cleared and, where the parameters say so, checked
(R179, R200, R204). -/
theorem Reaches.disabled {s : State} (hv : validParams s.cfg = true) (hb : BusOk s) (hl : Listening s.dev) {op : Op}
    (hx : afterDisable s.cfg op = toCleared s.cfg op) :
    ∃ t, Reaches { op := op, pt := .disable } s (afterCleared s.cfg op) t { s.dev with arm := false, wel := false }
      ([s.cfg.ops.wrdi] :: clearedFrame s.cfg) := by
  obtain ⟨t, e, -, g⟩ := disable_listening hv hb hl op
  rw [hx] at e
  obtain ⟨u, -, r, -⟩ := (Reaches.one e g).cleared hv hl rfl rfl
  exact ⟨u, r⟩

/-- An erase that a listening device has started, once it is complete (R37). -/
theorem Listening.engineComplete_erase {d : Dev} (h : Listening d) (lo hi : Nat) :
    engineComplete { d with pend := .erase lo hi, busy := true } = { d with wel := false, mem := memErase d.mem lo hi } := by
  simp only [engineComplete, h.1, h.2.1]

/-- The head of an erase on a listening device: the sector-erase frame starts it (R175, R204). -/
theorem Reaches.eraseStarts {s : State} (hv : validParams s.cfg = true) (hb : BusOk s) (hl : Listening s.dev) (ad : Bool)
    (hal : s.seq.ctx.a.toNat % s.cfg.sectorSize = 0)
    (hp : Unprotected s.dev (sectorOf s.cfg s.seq.ctx.a) (sectorOf s.cfg s.seq.ctx.a + s.cfg.sectorSize)) (addr : Word) :
    ∃ t, Reaches { op := .eraseSector ad addr, pt := .enable } s (.goto .sample) t
      { s.dev with
        arm := false, wel := true, busy := true
        pend := .erase (sectorOf s.cfg s.seq.ctx.a) (sectorOf s.cfg s.seq.ctx.a + s.cfg.sectorSize) }
      [[s.cfg.ops.wren], [s.cfg.ops.rdsr], s.cfg.ops.se :: addr24 s.seq.ctx.a] := by
  obtain ⟨t, k, b, -, r⟩ := Reaches.latched (s := s) (op := .eraseSector ad addr) hv hb hl rfl
    (fun _ _ hc _ hx => by simp only [latchCommand, hc, hx]) (decode_se hv s.seq.ctx.a) rfl
  have hse : (ownRule s.cfg k false (.se (maskAddr s.seq.ctx.a)) { s.dev with arm := false, wel := true }).dev = _ :=
    devSe_starts (paramFacts hv) k (d := { s.dev with arm := false, wel := true }) rfl hal hp
  rw [show isRsten (.se (maskAddr s.seq.ctx.a)) = false from rfl, hse] at r
  refine ⟨t, ?_⟩
  simpa only [afterCommand, latchCommand, List.append_nil] using r

/-- The end of an erase whose device is ready when the clock is sampled: one poll, and the latch is cleared (R174, R204). -/
theorem Reaches.eraseEnds {s : State} (hv : validParams s.cfg = true) (hb : BusOk s) (hl : Listening (devAtFrame s)) (ad : Bool)
    (addr : Word) :
    ∃ t, Reaches { op := .eraseSector ad addr, pt := .sample } s (.ret .ok) t
      { devAtFrame s with arm := false, wel := false } ([[s.cfg.ops.rdsr], [s.cfg.ops.wrdi]] ++ clearedFrame s.cfg) := by
  obtain ⟨t1, -, -, g1, r1⟩ := Reaches.ready (op := .eraseSector ad addr) hv hb hl rfl
  have r1 := r1 (.goto .disable) t1 rfl (Ran.refl g1.bus)
  set s1 := t1.withTask { op := .eraseSector ad addr, pt := .disable }
  have f1 : s1.cfg = s.cfg := g1.cfg
  have d1 : s1.dev = { devAtFrame s with arm := false } := g1.dev
  obtain ⟨t2, r2⟩ := Reaches.disabled (s := s1) (op := .eraseSector ad addr) (f1 ▸ hv) g1.bus (d1 ▸ hl) rfl
  rw [d1, f1] at r2
  exact ⟨t2, r1.andThen r2⟩

/-- Settles O43: the erase starts, completes before the first poll, and the latch is cleared again. -/
theorem eraseRequestsEraseTheSector : Obligations.EraseRequestsEraseTheSector := by
  intro s i ad addr hi hr hb he hl hw hal hp
  have hv := hr.2.2
  obtain ⟨t1, r1⟩ := Reaches.eraseStarts (s := accepted i (.eraseSector ad addr) s) hv hb hl ad hal hp addr
  set s1 := t1.withTask { op := .eraseSector ad addr, pt := .sample }
  have f1 : s1.cfg = s.cfg := r1.ran.cfg
  have q1 : devAtFrame s1 = { s.dev with
      arm := false, wel := false
      mem := memErase s.dev.mem (sectorOf s.cfg addr) (sectorOf s.cfg addr + s.cfg.sectorSize) } := by
    rw [devAtFrame_of_eager (s := s1) (r1.ran.eager he), show s1.dev = _ from r1.ran.dev]
    exact Listening.engineComplete_erase (d := { s.dev with arm := false, wel := true }) hl _ _
  obtain ⟨t2, r2⟩ := Reaches.eraseEnds (s := s1) (f1 ▸ hv) r1.ran.bus (q1 ▸ hl) ad addr
  rw [q1, f1] at r2
  exact ⟨_, requestGives_of_reaches (op := .eraseSector ad addr) hr (requestOp_of_eraseOperands hi)
    (decide_eq_true hal) (.inr (List.cons_ne_nil _ _)) (r1.andThen r2), fun x => memRead_memErase ..⟩

end Sys2Proof.Machine
end

section
/-! PROOFS. The erase check (42_seq_operations R205, 43_block_adapter R234): it goes from slice to slice while what it reads
is erased, and ends with the slice that holds the first byte that is not. -/

namespace Sys2Proof.Machine

/-! ### One slice (R205) -/

/-- The slice that a cursor begins is erased in the array, read as the device reads it, with its wrap (R44, R61). -/
def SliceErased (p : Params) (m : Memory) (a : Word) : Prop :=
  ∀ i, i < p.verifySlice → memRead m ((deviceAddr p (maskAddr a) + i) % p.deviceSize) = erasedByte

theorem readBytes_all_erased (p : Params) (m : Memory) (a : Word) :
    (readBytes m p.deviceSize (deviceAddr p (maskAddr a)) p.verifySlice).all (fun b => decide (b = erasedByte)) = true ↔
      SliceErased p m a := by
  simp [readBytes, SliceErased]

section
variable {s : State} (hv : validParams s.cfg = true) (hb : BusOk s) (hl : Listening s.dev) (op : Op)
include hv hb hl

/-- An erased slice on a listening device: the check goes on to the next one, or returns `Ok` after the last (R205). -/
theorem slice_erased (h : SliceErased s.cfg s.dev.mem s.seq.ctx.a) :
    ∃ t c, atPoint op .slice s =
        (if s.seq.ctx.rem - BitVec.ofNat 32 s.cfg.verifySlice = 0 then .ret .ok else .goto .slice, t) ∧
      t.seq.ctx.a = s.seq.ctx.a + BitVec.ofNat 32 s.cfg.verifySlice ∧
      t.seq.ctx.rem = s.seq.ctx.rem - BitVec.ofNat 32 s.cfg.verifySlice ∧
      Ran s t { s.dev with arm := false, ac := c } [s.cfg.ops.read :: addr24 s.seq.ctx.a] := by
  obtain ⟨c, hst, hrx, hctx, hran⟩ :=
    readRange_listening hv hb (hl.at_frame.symm ▸ hl.1) (hl.at_frame.symm ▸ hl.2.2) s.seq.ctx.a s.cfg.verifySlice
  rw [hl.at_frame] at hrx hran
  set r := readRange s.seq.ctx.a s.cfg.verifySlice s with hr
  have hall := (readBytes_all_erased s.cfg s.dev.mem s.seq.ctx.a).mpr h
  rw [← hrx] at hall
  refine ⟨advanceCursor s.cfg.verifySlice r.s, c, ?_, by simp [advanceCursor, hctx], by simp [advanceCursor, hctx], ?_⟩
  · simp only [atPoint, sliceStep, ← hr, onOk_ok hst, hall, if_true, hran.cfg, advanceCursor, State.withCtx_ctx, hctx]
  · have hmove := hran.trans (Ran.withCtx hran.bus (advanceCursor s.cfg.verifySlice r.s).seq.ctx)
    rw [hran.dev] at hmove
    exact hmove

/-- A slice with a byte that is not erased, on a listening device: the check fails (R205, R254). -/
theorem slice_not_erased (h : ¬ SliceErased s.cfg s.dev.mem s.seq.ctx.a) :
    ∃ t c, atPoint op .slice s = (.ret .verificationFailure, t) ∧
      Ran s t { s.dev with arm := false, ac := c } [s.cfg.ops.read :: addr24 s.seq.ctx.a] := by
  obtain ⟨c, hst, hrx, -, hran⟩ :=
    readRange_listening hv hb (hl.at_frame.symm ▸ hl.1) (hl.at_frame.symm ▸ hl.2.2) s.seq.ctx.a s.cfg.verifySlice
  rw [hl.at_frame] at hrx hran
  have hall := mt (readBytes_all_erased s.cfg s.dev.mem s.seq.ctx.a).mp h
  rw [← hrx] at hall
  refine ⟨_, c, ?_, hran⟩
  simp only [atPoint, sliceStep, onOk_ok hst, hall, if_false, Bool.false_eq_true]

end

/-! ### Slice after slice (R205) -/

/-- The frames of an erase check: the reads of its first `n` slices from a cursor on (R205). -/
def sliceFrames (p : Params) (a : Word) (n : Nat) : List (List Byte) :=
  (List.range n).map fun k => p.ops.read :: addr24 (a + BitVec.ofNat 32 (k * p.verifySlice))

theorem slice_cursor_succ (a : Word) (v k : Nat) :
    a + BitVec.ofNat 32 v + BitVec.ofNat 32 (k * v) = a + BitVec.ofNat 32 ((k + 1) * v) := by
  rw [BitVec.add_assoc, ← BitVec.ofNat_add, Nat.succ_mul, Nat.add_comm]

theorem sliceFrames_succ (p : Params) (a : Word) (n : Nat) :
    sliceFrames p a (n + 1) = [p.ops.read :: addr24 a] ++ sliceFrames p (a + BitVec.ofNat 32 p.verifySlice) n := by
  simp [sliceFrames, List.range_succ_eq_map, slice_cursor_succ]

/-- How an erase check ends at the slice that a cursor begins, with `rem` bytes left: it is the last one and erased, or it is
not erased (R205). -/
def SliceEnds (p : Params) (m : Memory) (a : Word) (rem : Nat) (st : Status) : Prop :=
  (SliceErased p m a ∧ rem = p.verifySlice ∧ st = .ok) ∨ (¬ SliceErased p m a ∧ st = .verificationFailure)

/-- The erase check reads its erased slices, and the one it ends with (R205). -/
theorem Reaches.slices {p : Params} (hv : validParams p = true) {ad : Bool} {addr : Word} {st : Status} :
    ∀ (q : Nat) {s : State}, s.cfg = p → BusOk s → Listening s.dev → (q + 1) * p.verifySlice ≤ s.seq.ctx.rem.toNat →
      (∀ k, k < q → SliceErased p s.dev.mem (s.seq.ctx.a + BitVec.ofNat 32 (k * p.verifySlice))) →
      SliceEnds p s.dev.mem (s.seq.ctx.a + BitVec.ofNat 32 (q * p.verifySlice))
        (s.seq.ctx.rem.toNat - q * p.verifySlice) st →
      ∃ t c, Reaches { op := .verifySectorErased ad addr, pt := .slice } s (.ret st) t
        { s.dev with arm := false, ac := c } (sliceFrames p s.seq.ctx.a (q + 1))
  | 0, s, hc, hb, hl, hrem, _, hend => by
    subst hc
    rw [Nat.zero_mul, BitVec.add_zero] at hend
    rw [sliceFrames_succ, sliceFrames, List.range_zero, List.map_nil, List.append_nil]
    rcases hend with ⟨her, hlast, rfl⟩ | ⟨her, rfl⟩
    · obtain ⟨t, c, e, -, -, g⟩ := slice_erased hv hb hl (.verifySectorErased ad addr) her
      have hz : s.seq.ctx.rem - BitVec.ofNat 32 s.cfg.verifySlice = 0 := by
        rw [← hlast, Nat.sub_zero, BitVec.ofNat_toNat, BitVec.setWidth_eq]
        exact BitVec.sub_self _
      rw [if_pos hz] at e
      exact ⟨t, c, .one e g⟩
    · obtain ⟨t, c, e, g⟩ := slice_not_erased hv hb hl (.verifySectorErased ad addr) her
      exact ⟨t, c, .one e g⟩
  | q + 1, s, hc, hb, hl, hrem, hall, hend => by
    subst hc
    have hpos := (paramFacts hv).slice_pos
    have hlt := s.seq.ctx.rem.isLt
    have hstep : (q + 1 + 1) * s.cfg.verifySlice = (q + 1) * s.cfg.verifySlice + s.cfg.verifySlice := Nat.succ_mul ..
    have hone : s.cfg.verifySlice ≤ (q + 1) * s.cfg.verifySlice := Nat.le_mul_of_pos_left _ q.succ_pos
    have hsub : (s.seq.ctx.rem - BitVec.ofNat 32 s.cfg.verifySlice).toNat = s.seq.ctx.rem.toNat - s.cfg.verifySlice := by
      rw [BitVec.toNat_sub_of_le] <;> simp [BitVec.le_def] <;> omega
    have hnz : s.seq.ctx.rem - BitVec.ofNat 32 s.cfg.verifySlice ≠ 0 := fun hz => by
      rw [hz] at hsub; simp at hsub; omega
    have her : SliceErased s.cfg s.dev.mem s.seq.ctx.a := by simpa using hall 0 q.succ_pos
    obtain ⟨t, c, e, ha, hr, g⟩ := slice_erased hv hb hl (.verifySectorErased ad addr) her
    rw [if_neg hnz] at e
    set s1 := t.withTask { op := .verifySectorErased ad addr, pt := .slice }
    have d1 : s1.dev = { s.dev with arm := false, ac := c } := g.dev
    have a1 : s1.seq.ctx.a = s.seq.ctx.a + BitVec.ofNat 32 s.cfg.verifySlice := ha
    have r1 : s1.seq.ctx.rem = s.seq.ctx.rem - BitVec.ofNat 32 s.cfg.verifySlice := hr
    obtain ⟨u, c', h⟩ := Reaches.slices hv (ad := ad) (addr := addr) (st := st) q (s := s1) g.cfg g.bus (d1 ▸ hl)
      (by rw [r1, hsub]; omega)
      (fun k hk => by rw [d1, a1, slice_cursor_succ]; exact hall (k + 1) (by omega))
      (by
        rw [d1, a1, r1, hsub, slice_cursor_succ, Nat.sub_sub, Nat.add_comm s.cfg.verifySlice,
          ← Nat.succ_mul]
        exact hend)
    rw [d1, a1] at h
    rw [sliceFrames_succ]
    exact ⟨u, c', (Reaches.one e g).andThen h⟩

/-! ### The slices of a sector (R61, R205) -/

/-- A place inside a unit that a modulus is made of: the reduction keeps it. -/
theorem mod_add_of_aligned {n u a j : Nat} (hn : 0 < n) (hu : n % u = 0) (ha : a % u = 0) (hj : j < u) :
    (a + j) % n = a % n + j ∧ a % n % u = 0 := by
  have hmod : a % n % u = 0 := by rw [Nat.mod_mod_of_dvd _ (Nat.dvd_of_mod_eq_zero hu), ha]
  have hend : a % n + (j + 1) ≤ n := unit_end_le hu (Nat.mod_lt _ hn) (by omega)
  rw [Nat.add_mod, Nat.mod_eq_of_lt (a := j) (by omega), Nat.mod_eq_of_lt (by omega)]
  exact ⟨rfl, hmod⟩

/-- The bytes of an aligned sector lie at consecutive array addresses (R61, R97). -/
theorem targetAddr_sector {p : Params} (hF : ParamFacts p) {addr : Word} (hal : addr.toNat % p.sectorSize = 0) {j : Nat}
    (hj : j < p.sectorSize) : targetAddr p addr j = sectorOf p addr + j := by
  have hword : 2 ^ 32 % p.sectorSize = 0 :=
    Nat.mod_eq_zero_of_dvd ((Nat.dvd_of_mod_eq_zero hF.sector_div).trans (by decide))
  obtain ⟨h1, hal1⟩ := mod_add_of_aligned (by decide) hword hal hj
  obtain ⟨h2, hal2⟩ := mod_add_of_aligned (by decide) hF.sector_div hal1 hj
  obtain ⟨h3, -⟩ := mod_add_of_aligned hF.size_pos hF.size_sector hal2 hj
  rw [targetAddr, h1, h2, h3, Nat.mod_eq_of_lt addr.isLt, sectorOf]

/-- A slice of a sector is erased exactly when its bytes of the sector are. -/
theorem sliceErased_iff {p : Params} (hF : ParamFacts p) {m : Memory} {addr : Word}
    (hal : addr.toNat % p.sectorSize = 0) {k : Nat} (hk : (k + 1) * p.verifySlice ≤ p.sectorSize) :
    SliceErased p m (addr + BitVec.ofNat 32 (k * p.verifySlice)) ↔
      ∀ i, i < p.verifySlice → memRead m (sectorOf p addr + (k * p.verifySlice + i)) = 0xFF := by
  have hsucc : (k + 1) * p.verifySlice = k * p.verifySlice + p.verifySlice := Nat.succ_mul ..
  have hpos := hF.slice_pos
  have hle := hF.sector_le
  refine forall₂_congr fun i hi => ?_
  have hj := targetAddr_sector hF hal (j := k * p.verifySlice + i) (by omega)
  have hlt : targetAddr p addr (k * p.verifySlice + i) < p.deviceSize := Nat.mod_lt _ hF.size_pos
  have hword : (BitVec.ofNat 32 (k * p.verifySlice)).toNat = k * p.verifySlice := by
    rw [BitVec.toNat_ofNat]; omega
  rw [targetAddr_word, hword, targetAddr_sector hF hal (by omega), Nat.add_assoc, ← hj, Nat.mod_eq_of_lt hlt]
  rfl

/-- An erase check that ends at slice `q` of its sector, the slices before it being erased. -/
theorem requestGives_of_slices {s : State} {i : Instr} {ad : Bool} {addr : Word} {st : Status}
    (hi : verifyOperands s.cfg i = some (ad, addr)) (hr : Ready s) (hb : BusOk s) (hl : Listening s.dev)
    (hal : addr.toNat % s.cfg.sectorSize = 0) {q : Nat} (hq : (q + 1) * s.cfg.verifySlice ≤ s.cfg.sectorSize)
    (hall : ∀ k, k < q → SliceErased s.cfg s.dev.mem (addr + BitVec.ofNat 32 (k * s.cfg.verifySlice)))
    (hend : SliceEnds s.cfg s.dev.mem (addr + BitVec.ofNat 32 (q * s.cfg.verifySlice))
      (s.cfg.sectorSize - q * s.cfg.verifySlice) st) :
    ∃ c, RequestGives i s st (sliceFrames s.cfg addr (q + 1)) [] (codeOf ad st) { s.dev with arm := false, ac := c } := by
  have hv := hr.2.2
  have hrem : (accepted i (.verifySectorErased ad addr) s).seq.ctx.rem.toNat = s.cfg.sectorSize :=
    sectorSize_toNat (paramFacts hv)
  obtain ⟨t, c, h⟩ := Reaches.slices hv (ad := ad) (addr := addr) (st := st) q
    (s := accepted i (.verifySectorErased ad addr) s) rfl hb hl (by rw [hrem]; exact hq) hall (by rw [hrem]; exact hend)
  exact ⟨c, requestGives_of_reaches (op := .verifySectorErased ad addr) hr (requestOp_of_verifyOperands hi)
    (decide_eq_true hal) (.inr (by rw [sliceFrames_succ]; exact List.cons_ne_nil _ _)) h⟩

/-- Settles O44: the check ends with the last slice, or with the slice that holds the first byte that is not erased. -/
theorem verifyRequestsFindErasedSectors : Obligations.VerifyRequestsFindErasedSectors := by
  intro s i ad addr hi hr hb hl hal
  have hF := paramFacts hr.2.2
  have hpos := hF.slice_pos
  have hcount : s.cfg.sectorSize / s.cfg.verifySlice * s.cfg.verifySlice = s.cfg.sectorSize :=
    Nat.div_mul_cancel (Nat.dvd_of_mod_eq_zero hF.slice_div)
  have inside : ∀ {k n : Nat}, k < n → (k + 1) * s.cfg.verifySlice ≤ n * s.cfg.verifySlice :=
    fun h => Nat.mul_le_mul_right _ h
  refine ⟨fun herased => ?_, fun j hj hbad hbefore => ?_⟩
  · obtain ⟨q, hq⟩ : ∃ q, s.cfg.sectorSize / s.cfg.verifySlice = q + 1 :=
      Nat.exists_eq_add_one.mpr (Nat.div_pos (Nat.le_of_dvd hF.sector_pos (Nat.dvd_of_mod_eq_zero hF.slice_div)) hpos)
    rw [hq] at hcount ⊢
    have hslice : ∀ k, k < q + 1 → SliceErased s.cfg s.dev.mem (addr + BitVec.ofNat 32 (k * s.cfg.verifySlice)) :=
      fun k hk => (sliceErased_iff hF hal (hcount ▸ inside hk)).mpr fun i hi => herased _ (by
        have := inside hk
        rw [Nat.succ_mul] at this
        omega)
    refine requestGives_of_slices hi hr hb hl hal hcount.le (fun k hk => hslice k (by omega))
      (.inl ⟨hslice q q.lt_succ_self, ?_, rfl⟩)
    rw [← hcount, Nat.succ_mul, Nat.add_sub_cancel_left]
  · have hq : j / s.cfg.verifySlice < s.cfg.sectorSize / s.cfg.verifySlice :=
      Nat.div_lt_of_lt_mul (by rw [Nat.mul_comm, hcount]; exact hj)
    have hdiv : j / s.cfg.verifySlice * s.cfg.verifySlice + j % s.cfg.verifySlice = j := Nat.div_add_mod' ..
    refine requestGives_of_slices hi hr hb hl hal (hcount ▸ inside hq) (fun k hk => ?_) (.inr ⟨fun her => hbad ?_, rfl⟩)
    · refine (sliceErased_iff hF hal (hcount ▸ inside (hk.trans hq))).mpr fun i hi => hbefore _ ?_
      have := inside hk
      rw [Nat.succ_mul] at this
      omega
    · rw [← hdiv]
      exact (sliceErased_iff hF hal (hcount ▸ inside hq)).mp her _ (Nat.mod_lt _ hpos)

end Sys2Proof.Machine
end

section
/-! PROOFS. `write` and `blockWrite` on an unprotected range of an eager device (42_seq_operations R200, 43_block_adapter
R232): chunk after chunk is programmed, and the read-back compares the whole range (R202). -/

namespace Sys2Proof.Machine

/-! ### What a write does to the array (R37, R200) -/

/-- The array `m'` is `m` with the bytes `lo` to `hi` of a buffer ANDed into the targets of a write at `addr`. -/
structure Programs (p : Params) (addr : Word) (buf : List Byte) (lo hi : Nat) (m m' : Memory) : Prop where
  hit  : ∀ j b, lo ≤ j → j < hi → buf[j]? = some b →
    memRead m' (targetAddr p addr j) = memRead m (targetAddr p addr j) &&& b
  miss : ∀ x, (∀ j, lo ≤ j → j < hi → targetAddr p addr j ≠ x) → memRead m' x = memRead m x

/-- The addresses that a write of `n` bytes names are distinct. -/
def DistinctTargets (p : Params) (addr : Word) (n : Nat) : Prop :=
  ∀ j k, j < k → k < n → targetAddr p addr j ≠ targetAddr p addr k

section
variable {p : Params} {addr : Word} {buf : List Byte} {lo mid hi : Nat} {m m1 m2 : Memory}

theorem Programs.refl : Programs p addr buf lo lo m m := ⟨fun _ _ h1 h2 => absurd h2 (by omega), fun _ _ => rfl⟩

theorem Programs.trans (hd : DistinctTargets p addr hi) (h1 : lo ≤ mid) (h2 : mid ≤ hi) (h : Programs p addr buf lo mid m m1)
    (g : Programs p addr buf mid hi m1 m2) : Programs p addr buf lo hi m m2 where
  hit j b hlo hhi hb := by
    rcases Nat.lt_or_ge j mid with hj | hj
    · rw [g.miss _ fun k hk hk' => (hd j k (by omega) hk').symm]
      exact h.hit j b hlo hj hb
    · rw [g.hit j b hj hhi hb, h.miss _ fun k _ hk' => hd k j (by omega) hhi]
  miss x hx := (g.miss x fun j hj => hx j (h1.trans hj)).trans (h.miss x fun j hj hj' => hx j hj (hj'.trans_le h2))

/-- A page-program whose chunk stays in one page writes the targets of its bytes (R37, R64). -/
theorem memProgram_programs (hF : ParamFacts p) (hw : Memory.wf m = true) {off n : Nat} (hlen : off + n ≤ buf.length)
    (hpage : (addr.toNat + off) % 2 ^ 32 % pageSize + n ≤ pageSize) :
    Programs p addr buf off (off + n) m (memProgram m (targetAddr p addr off) (slice buf off n)) where
  hit j b hlo hhi hb := by
    obtain ⟨i, rfl⟩ := Nat.exists_eq_add_of_le hlo
    rw [memRead_memProgram _ hw, slice_length hlen, targetAddr_add hF addr off n i (by omega) hpage, if_pos (by omega),
      Nat.add_sub_cancel_left]
    have hi : (slice buf off n)[i]? = some b := by
      rw [slice, List.getElem?_take_of_lt (by omega), List.getElem?_drop, hb]
    rw [List.getD_eq_getElem?_getD, hi, Option.getD_some]
  miss x hx := by
    rw [memRead_memProgram _ hw, slice_length hlen]
    refine if_neg fun ⟨h1, h2⟩ => hx (off + (x - targetAddr p addr off)) (by omega) (by omega) ?_
    rw [targetAddr_add hF addr off n _ (by omega) hpage, Nat.add_sub_cancel' h1]

end

/-! ### One chunk (R200) -/

/-- A program that a listening device has started, once it is complete (R37). -/
theorem Listening.engineComplete_program {d : Dev} (h : Listening d) (a : Nat) (data : List Byte) (c : Addr24) :
    engineComplete { d with pend := .program a data, busy := true, ac := c } =
      { d with wel := false, ac := c, mem := memProgram d.mem a data } := by
  simp only [engineComplete, h.1, h.2.1]

section
variable {s : State} {addr size : Word}

/-- The page of the cursor holds the chunk, in the terms of its first target (R64, R201). -/
theorem WriteCursor.chunk_page (hc : WriteCursor s .enable addr size) :
    (addr.toNat + s.seq.ctx.off.toNat) % 2 ^ 32 % pageSize + s.seq.ctx.n.toNat ≤ pageSize := by
  obtain ⟨-, -, h⟩ := hc.chunk_bounds rfl
  rwa [hc.addr, BitVec.toNat_add] at h

/-- A chunk of an unprotected range: the device takes its page-program (R134, R139). -/
theorem WriteCursor.devPp_starts (hv : validParams s.cfg = true) (hc : WriteCursor s .enable addr size)
    (hp : ∀ j, j < size.toNat → protAt s.dev.prot (targetAddr s.cfg addr j) = false) (k : Nat) :
    ∃ c, (devPp s.cfg k (maskAddr s.seq.ctx.a) (slice s.host.inp s.seq.ctx.off.toNat s.seq.ctx.n.toNat)
        { s.dev with arm := false, wel := true }).dev =
      { s.dev with
        arm := false, wel := true, busy := true, ac := c
        pend := .program (targetAddr s.cfg addr s.seq.ctx.off.toNat)
          (slice s.host.inp s.seq.ctx.off.toNat s.seq.ctx.n.toNat) } := by
  have hF := paramFacts hv
  obtain ⟨-, hrem, hpage⟩ := hc.chunk_bounds rfl
  have htotal := hc.total
  have hlen := hc.slice_length rfl
  have hta : deviceAddr s.cfg (maskAddr s.seq.ctx.a) = targetAddr s.cfg addr s.seq.ctx.off.toNat := by
    rw [hc.addr, targetAddr_word]
  have hfree : rangeProtected s.dev.prot (targetAddr s.cfg addr s.seq.ctx.off.toNat)
      (targetAddr s.cfg addr s.seq.ctx.off.toNat + s.seq.ctx.n.toNat) = false := by
    refine rangeProtected_of_unprotected fun x h1 h2 => ?_
    have hx := targetAddr_add hF addr s.seq.ctx.off.toNat s.seq.ctx.n.toNat
      (x - targetAddr s.cfg addr s.seq.ctx.off.toNat) (by omega) hc.chunk_page
    rw [Nat.add_sub_cancel' h1] at hx
    rw [← hx]
    exact hp _ (by omega)
  rw [devPp_inPage hF k s.seq.ctx.a _ _ rfl (by rw [hlen]; exact hpage), hta, hlen]
  simp only [hfree, Bool.false_eq_true, if_false]
  exact ⟨_, rfl⟩

@[simp] theorem chunkHead_rem (c : Context) : (chunkHead c).rem = c.rem := by
  unfold chunkHead
  split_ifs <;> rfl

/-- A chunk of a write on a listening, eager device: it is programmed, and the cursor moves on (R200). -/
theorem Reaches.chunk (hv : validParams s.cfg = true) (hb : BusOk s) (he : Eager s) (hl : Listening s.dev)
    (hc : WriteCursor s .enable addr size)
    (hp : ∀ j, j < size.toNat → protAt s.dev.prot (targetAddr s.cfg addr j) = false) (ad : Bool) :
    ∃ t c fs, Reaches { op := .write ad addr size, pt := .enable } s (.goto (chunkPoint t.seq.ctx.rem)) t
        { s.dev with
          arm := false, wel := false, ac := c
          mem := memProgram s.dev.mem (targetAddr s.cfg addr s.seq.ctx.off.toNat)
            (slice s.host.inp s.seq.ctx.off.toNat s.seq.ctx.n.toNat) } fs ∧
      WriteCursor t (chunkPoint t.seq.ctx.rem) addr size ∧
      t.seq.ctx.off.toNat = s.seq.ctx.off.toNat + s.seq.ctx.n.toNat := by
  obtain ⟨h1, hrem, -⟩ := hc.chunk_bounds rfl
  have htotal := hc.total
  have hbuf := hc.buffer
  have hsize := size.isLt
  have hne : s.seq.ctx.rem ≠ 0 := fun h => by rw [h] at hrem; simp at hrem; omega
  obtain ⟨t1, b1, k, c1, r1⟩ := chunkStart_listening hv hb hl ad addr size hne (by omega) (hc.chunk rfl).2
  obtain ⟨ac, hpp⟩ := hc.devPp_starts hv hp k
  rw [hpp] at r1
  set s1 := t1.withTask { op := .write ad addr size, pt := .sample }
  have f1 : s1.cfg = s.cfg := r1.ran.cfg
  have x1 : s1.seq.ctx = { s.seq.ctx with srs := b1 } := c1
  have q1 : devAtFrame s1 = _ := (devAtFrame_of_eager (s := s1) (r1.ran.eager he)).trans
    ((congrArg engineComplete r1.ran.dev).trans
      (Listening.engineComplete_program (d := { s.dev with arm := false, wel := true }) hl _ _ ac))
  obtain ⟨u, b2, t0, c2, r2⟩ := chunkEnd_ready (t := s1) (f1 ▸ hv) r1.ran.bus (q1 ▸ hl) ad addr size
  rw [q1] at r2
  have hpoll : WriteCursor (s1.withCtx { s1.seq.ctx with t0 := t0 }) .poll addr size :=
    hc.congr (congrArg HostPort.inp r1.ran.host) (b := b1) (t0 := t0) (by rw [State.withCtx_ctx, x1]) rfl
  have hcur := hpoll.advance (c := { s1.seq.ctx with t0 := t0, srs := b2 }) (b := b2) rfl
    (t := u) (congrArg HostPort.inp r2.ran.host) c2
  have hr : u.seq.ctx.rem = s1.seq.ctx.rem - BitVec.ofNat 32 s1.seq.ctx.n.toNat := by rw [c2, chunkHead_rem]
  have ho : u.seq.ctx.off = s1.seq.ctx.off + BitVec.ofNat 32 s1.seq.ctx.n.toNat := by rw [c2, chunkHead_off]
  rw [← hr] at r2
  refine ⟨u, ac, _, r1.andThen r2, hr ▸ hcur, ?_⟩
  rw [ho, x1, BitVec.toNat_add, BitVec.toNat_ofNat]
  show (s.seq.ctx.off.toNat + s.seq.ctx.n.toNat % 2 ^ 32) % 2 ^ 32 = _
  omega

end

/-! ### Chunk after chunk (R200) -/

/-- A write whose chunks are left from its cursor on, up to the check of the cleared latch (R200). -/
theorem Reaches.chunks {addr size : Word} (ad : Bool) {s : State} (hv : validParams s.cfg = true) (hb : BusOk s) (he : Eager s)
    (hl : Listening s.dev) (hw : Memory.wf s.dev.mem = true) (hc : WriteCursor s (chunkPoint s.seq.ctx.rem) addr size)
    (hp : ∀ j, j < size.toNat → protAt s.dev.prot (targetAddr s.cfg addr j) = false)
    (hd : DistinctTargets s.cfg addr size.toNat) :
    ∃ t c m fs, Reaches { op := .write ad addr size, pt := chunkPoint s.seq.ctx.rem } s
        (afterCleared s.cfg (.write ad addr size)) t { s.dev with arm := false, wel := false, ac := c, mem := m } fs ∧
      fs ≠ [] ∧ Programs s.cfg addr s.host.inp s.seq.ctx.off.toNat size.toNat s.dev.mem m := by
  induction hk : s.seq.ctx.rem.toNat using Nat.strong_induction_on generalizing s with
  | _ k ih =>
  by_cases hz : s.seq.ctx.rem = 0
  · obtain ⟨t, r⟩ := Reaches.disabled (op := .write ad addr size) hv hb hl rfl
    have hend : s.seq.ctx.off.toNat = size.toNat := by have := hc.total; rw [hz] at this; simpa using this
    rw [show chunkPoint s.seq.ctx.rem = .disable from if_pos hz, hend]
    exact ⟨t, _, _, _, r, List.cons_ne_nil _ _, Programs.refl⟩
  · rw [show chunkPoint s.seq.ctx.rem = .enable from if_neg hz] at hc ⊢
    obtain ⟨h1, hrem, -⟩ := hc.chunk_bounds rfl
    have htotal := hc.total
    have hbuf := hc.buffer
    obtain ⟨t1, ac, fs, r1, hc1, ho1⟩ := Reaches.chunk hv hb he hl hc hp ad
    set s1 := t1.withTask { op := .write ad addr size, pt := chunkPoint t1.seq.ctx.rem }
    have f1 : s1.cfg = s.cfg := r1.ran.cfg
    have d1 : s1.dev = _ := r1.ran.dev
    have i1 : s1.host.inp = s.host.inp := congrArg HostPort.inp r1.ran.host
    have hcur1 : WriteCursor s1 (chunkPoint s1.seq.ctx.rem) addr size :=
      ⟨hc1.buffer, hc1.addr, hc1.total, hc1.chunk, hc1.page, hc1.rest⟩
    have htotal1 := hcur1.total
    have hprog := memProgram_programs (paramFacts hv) hw (buf := s.host.inp) (by omega) hc.chunk_page
    obtain ⟨t2, c, m, gs, r2, hgs, hm⟩ := ih s1.seq.ctx.rem.toNat
      (by have : s1.seq.ctx.off.toNat = _ := ho1; omega) (s := s1)
      (f1 ▸ hv) r1.ran.bus (r1.ran.eager he) (by rw [d1]; exact hl) (by rw [d1]; exact wf_memProgram _ hw _) hcur1
      (by rw [d1, f1]; exact hp) (by rw [f1]; exact hd) rfl
    rw [f1, d1] at r2
    rw [f1, d1, i1, show s1.seq.ctx.off.toNat = _ from ho1] at hm
    exact ⟨t2, c, m, _, r1.andThen r2, List.append_ne_nil_of_right_ne_nil _ hgs,
      hprog.trans hd (by omega) (by omega) hm⟩

/-! ### The read-back (R202) -/

/-- What the read-back reads at byte `j` is what the write named there, unless the range wraps where the device does not
(R23, R44). -/
theorem readBack_target {p : Params} {addr : Word} {n j : Nat} (hj : j < n)
    (hwrap : addr.toNat % 2 ^ 24 + n ≤ 2 ^ 24 ∨ 2 ^ 24 % p.deviceSize = 0) :
    (deviceAddr p (maskAddr addr) + j) % p.deviceSize = targetAddr p addr j := by
  have hword : (addr.toNat + j) % 2 ^ 32 % 2 ^ 24 = (addr.toNat % 2 ^ 24 + j) % 2 ^ 24 := by omega
  rw [deviceAddr_mask, Nat.mod_add_mod, targetAddr, hword]
  rcases hwrap with h | h
  · rw [Nat.mod_eq_of_lt (a := addr.toNat % 2 ^ 24 + j) (b := 2 ^ 24) (by omega)]
  · rw [Nat.mod_mod_of_dvd _ (Nat.dvd_of_mod_eq_zero h)]

/-- The read-back matches the buffer exactly when every byte of it stands at its target. -/
theorem readBack_matches_iff {p : Params} {m : Memory} {addr : Word} {buf : List Byte} {n : Nat} (hlen : n ≤ buf.length)
    (hwrap : addr.toNat % 2 ^ 24 + n ≤ 2 ^ 24 ∨ 2 ^ 24 % p.deviceSize = 0) :
    readBytes m p.deviceSize (deviceAddr p (maskAddr addr)) n = slice buf 0 n ↔
      ∀ j b, j < n → buf[j]? = some b → memRead m (targetAddr p addr j) = b := by
  have hread : ∀ j, j < n → (readBytes m p.deviceSize (deviceAddr p (maskAddr addr)) n)[j]? =
      some (memRead m (targetAddr p addr j)) := fun j hj => by
    rw [readBytes_getElem? _ _ _ hj, readBack_target hj hwrap]
  have hslice : ∀ j, j < n → (slice buf 0 n)[j]? = buf[j]? := fun j hj => by
    rw [slice, List.drop_zero, List.getElem?_take_of_lt hj]
  constructor
  · intro h j b hj hb
    have := hread j hj
    rw [h, hslice j hj, hb] at this
    exact (Option.some.inj this).symm
  · intro h
    refine List.ext_getElem? fun j => ?_
    rcases Nat.lt_or_ge j n with hj | hj
    · rw [hread j hj, hslice j hj, List.getElem?_eq_getElem (hj.trans_le hlen)]
      exact congrArg some (h j _ hj (List.getElem?_eq_getElem _))
    · rw [List.getElem?_eq_none (by simpa using hj), List.getElem?_eq_none (by simp [slice]; omega)]

/-- The read-back of a write on a listening device (R202). -/
theorem readBack_listening {s : State} (hv : validParams s.cfg = true) (hb : BusOk s) (hl : Listening s.dev) (ad : Bool)
    (addr size : Word) :
    ∃ t c, atPoint (.write ad addr size) .readBack s =
        (.ret (if readBytes s.dev.mem s.cfg.deviceSize (deviceAddr s.cfg (maskAddr addr)) size.toNat =
          slice s.host.inp 0 size.toNat then .ok else .verificationFailure), t) ∧
      Ran s t { s.dev with arm := false, ac := c } [s.cfg.ops.read :: addr24 addr] := by
  obtain ⟨c, hst, hrx, -, hran⟩ :=
    readRange_listening hv hb (hl.at_frame.symm ▸ hl.1) (hl.at_frame.symm ▸ hl.2.2) addr size.toNat
  rw [hl.at_frame] at hrx hran
  refine ⟨_, c, ?_, hran⟩
  simp only [atPoint, readBackStep, opRange, onOk_ok hst, hrx, hran.host]
  split_ifs <;> rfl

/-- The status of a write whose chunks are done: that of its read-back, where the parameters have one (R200, R202). -/
def writeStatusOf (p : Params) (m : Memory) (addr : Word) (buf : List Byte) (n : Nat) : Status :=
  if p.verifyAfterWrite = true ∧ readBytes m p.deviceSize (deviceAddr p (maskAddr addr)) n ≠ slice buf 0 n then
    .verificationFailure
  else .ok

/-- The status of a write is `Ok` without a read-back or when every byte stuck, and with a read-back it is
`VerificationFailure` when one did not (R202). -/
theorem Programs.status {p : Params} {addr : Word} {buf : List Byte} {n : Nat} {m m' : Memory}
    (h : Programs p addr buf 0 n m m') (hlen : n ≤ buf.length)
    (hwrap : p.verifyAfterWrite = true → addr.toNat % 2 ^ 24 + n ≤ 2 ^ 24 ∨ 2 ^ 24 % p.deviceSize = 0) :
    (p.verifyAfterWrite = false ∨
        (∀ j b, j < n → buf[j]? = some b → memRead m (targetAddr p addr j) &&& b = b) →
      writeStatusOf p m' addr buf n = .ok) ∧
    (p.verifyAfterWrite = true → (∃ j b, j < n ∧ buf[j]? = some b ∧ memRead m (targetAddr p addr j) &&& b ≠ b) →
      writeStatusOf p m' addr buf n = .verificationFailure) := by
  have hmatch := fun hver => readBack_matches_iff (m := m') hlen (hwrap hver)
  refine ⟨fun hstick => if_neg fun ⟨hver, hne⟩ => ?_, fun hver ⟨j, b, hj, hb, hbad⟩ => if_pos ⟨hver, fun heq => ?_⟩⟩
  · rcases hstick with hoff | hstick
    · exact Bool.false_ne_true (hoff.symm.trans hver)
    · exact hne ((hmatch hver).mpr fun j b hj hb => (h.hit j b j.zero_le hj hb).trans (hstick j b hj hb))
  · exact hbad ((h.hit j b j.zero_le hj hb).symm.trans ((hmatch hver).mp heq j b hj hb))

/-- A write whose chunks are done goes on to its read-back, where the parameters have one, and returns (R200, R202). -/
theorem Reaches.readBack {s t : State} {pt : Point} {ad : Bool} {addr size : Word} {d : Dev} {fs : List (List Byte)}
    (hv : validParams s.cfg = true) (hl : Listening d) (ha : d.arm = false)
    (h : Reaches { op := .write ad addr size, pt := pt } s (afterCleared s.cfg (.write ad addr size)) t d fs) :
    ∃ u c gs, Reaches { op := .write ad addr size, pt := pt } s
      (.ret (writeStatusOf s.cfg d.mem addr s.host.inp size.toNat)) u { d with ac := c } (fs ++ gs) := by
  by_cases hver : s.cfg.verifyAfterWrite = true
  · rw [show afterCleared s.cfg (.write ad addr size) = .goto .readBack from if_pos hver] at h
    set s1 := t.withTask { op := .write ad addr size, pt := .readBack }
    have f1 : s1.cfg = s.cfg := h.ran.cfg
    have d1 : s1.dev = d := h.ran.dev
    have i1 : s1.host.inp = s.host.inp := congrArg HostPort.inp h.ran.host
    obtain ⟨u, c, e, g⟩ := readBack_listening (s := s1) (f1 ▸ hv) h.ran.bus (d1 ▸ hl) ad addr size
    rw [f1, d1, i1] at e
    rw [f1, d1, ← ha] at g
    refine ⟨u, c, [s.cfg.ops.read :: addr24 addr], ?_⟩
    have hst : writeStatusOf s.cfg d.mem addr s.host.inp size.toNat = _ :=
      if_congr (and_iff_right hver) rfl rfl
    rw [hst, ite_not]
    exact h.andThen (.one e g)
  · rw [show afterCleared s.cfg (.write ad addr size) = .ret .ok from if_neg hver] at h
    refine ⟨t, d.ac, [], ?_⟩
    rw [List.append_nil, show writeStatusOf s.cfg d.mem addr s.host.inp size.toNat = .ok from if_neg fun h => hver h.1]
    exact h

/-- Settles O47: the chunks program the range, and the read-back tells whether every byte stuck. -/
theorem writeRequestsProgramTheRange : Obligations.WriteRequestsProgramTheRange := by
  intro s i ad addr n buf hi hr hb he hl hw hp hd hwrap
  have hv := hr.2.2
  obtain ⟨-, size, hop, rfl, hin⟩ := requestOp_of_writeOperands (s := s) hi
  have hlen : size.toNat ≤ buf.length := hin ▸ requestOp_write_buffer hop
  set s0 := accepted i (.write ad addr size) s
  have i0 : s0.host.inp = buf := hin
  have r0 : s0.seq.ctx.rem = size := chunkHead_rem _
  have o0 : s0.seq.ctx.off = 0 := chunkHead_off _
  have hc0 : WriteCursor s0 (chunkPoint s0.seq.ctx.rem) addr size :=
    r0.symm ▸ WriteCursor.opening (s := s0) (c := s.seq.ctx) (i0 ▸ hlen) rfl
  obtain ⟨t, c, m, fs, r, hfs, hm⟩ := Reaches.chunks ad (s := s0) hv hb he hl hw hc0 hp hd
  rw [r0] at r
  rw [i0, o0] at hm
  obtain ⟨u, c', gs, r'⟩ := r.readBack (s := s0) hv (by exact hl) rfl
  rw [i0] at r'
  obtain ⟨hok, hfail⟩ := hm.status hlen hwrap
  exact ⟨_, _, c', m, requestGives_of_reaches (op := .write ad addr size) hr hop rfl
    (.inr (List.append_ne_nil_of_left_ne_nil hfs _)) r', fun j b hj hb => hm.hit j b j.zero_le hj hb,
    fun x hx => hm.miss x fun j _ hj => hx j hj, hok, hfail⟩

end Sys2Proof.Machine
end

section
/-! PROOFS. The silent loss (70_reset_and_hazards R292): a listening device ignores an erase of a sector in which something is
protected and a page-program of a protected chunk (40_device_commands R139), WEL then being unspecified, and the operation ends
as if they had been done. And the idle machine (R280). -/

namespace Sys2Proof.Machine

/-! ### An erase that the device ignores (R139, R204) -/

/-- A sector-erase of an aligned sector in which something is protected is ignored (R135, R139). -/
theorem devSe_protected {p : Params} (hF : ParamFacts p) (k : Nat) {addr : Word} {d : Dev} (hw : d.wel = true)
    (hal : addr.toNat % p.sectorSize = 0)
    (hp : ¬ Unprotected d (sectorOf p addr) (sectorOf p addr + p.sectorSize)) :
    (devSe p k (maskAddr addr) d).dev = { d with wel := Config.freeWel k } := by
  rw [unprotected_iff, Bool.not_eq_false] at hp
  rw [devSe_of_aligned k ((deviceAddr_mod_sector hF addr).trans hal), deviceAddr_mask]
  exact congrArg Answer.dev ((if_pos hw).trans (if_pos hp))

/-- The head of an erase of a sector in which something is protected: WEL alone may be left set. -/
theorem Reaches.eraseIgnored {s : State} (hv : validParams s.cfg = true) (hb : BusOk s) (hl : Listening s.dev) (ad : Bool)
    (hal : s.seq.ctx.a.toNat % s.cfg.sectorSize = 0)
    (hp : ¬ Unprotected s.dev (sectorOf s.cfg s.seq.ctx.a) (sectorOf s.cfg s.seq.ctx.a + s.cfg.sectorSize)) (addr : Word) :
    ∃ t w fs, Reaches { op := .eraseSector ad addr, pt := .enable } s (.goto .sample) t
      { s.dev with arm := false, wel := w } fs := by
  obtain ⟨t, k, b, -, r⟩ := Reaches.latched (s := s) (op := .eraseSector ad addr) hv hb hl rfl
    (fun _ _ hc _ hx => by simp only [latchCommand, hc, hx]) (decode_se hv s.seq.ctx.a) rfl
  have hse : (ownRule s.cfg k false (.se (maskAddr s.seq.ctx.a)) { s.dev with arm := false, wel := true }).dev = _ :=
    devSe_protected (paramFacts hv) k (d := { s.dev with arm := false, wel := true }) rfl hal hp
  rw [show isRsten (.se (maskAddr s.seq.ctx.a)) = false from rfl, hse] at r
  exact ⟨t, _, _, r⟩

/-- An erase of a sector in which something is protected returns `Ok` all the same (R292). -/
theorem eraseOfProtectedSector_gives {s : State} {i : Instr} {ad : Bool} {addr : Word}
    (hi : eraseOperands s.cfg i = some (ad, addr)) (hr : Ready s) (hb : BusOk s) (hl : Listening s.dev)
    (hal : addr.toNat % s.cfg.sectorSize = 0)
    (hp : ¬ Unprotected s.dev (sectorOf s.cfg addr) (sectorOf s.cfg addr + s.cfg.sectorSize)) :
    ∃ frames, RequestGives i s .ok frames [] (codeOf ad .ok) { s.dev with arm := false, wel := false } := by
  have hv := hr.2.2
  obtain ⟨t1, w, fs, r1⟩ := Reaches.eraseIgnored (s := accepted i (.eraseSector ad addr) s) hv hb hl ad hal hp addr
  set s1 := t1.withTask { op := .eraseSector ad addr, pt := .sample }
  have f1 : s1.cfg = s.cfg := r1.ran.cfg
  have d1 : s1.dev = { s.dev with arm := false, wel := w } := r1.ran.dev
  have q1 : devAtFrame s1 = _ := (devAtFrame_of_none (d1 ▸ hl.2.1)).trans d1
  obtain ⟨t2, r2⟩ := Reaches.eraseEnds (s := s1) (f1 ▸ hv) r1.ran.bus (q1 ▸ hl) ad addr
  rw [q1] at r2
  exact ⟨_, requestGives_of_reaches (op := .eraseSector ad addr) hr (requestOp_of_eraseOperands hi)
    (decide_eq_true hal) (.inr (List.append_ne_nil_of_right_ne_nil _ (List.cons_ne_nil _ _))) (r1.andThen r2)⟩

/-! ### A write that the device ignores (R139, R200) -/

section
variable {s : State} {addr size : Word}

/-- A chunk of a protected range: the device ignores its page-program (R134, R139). -/
theorem WriteCursor.devPp_protected (hv : validParams s.cfg = true) (hc : WriteCursor s .enable addr size)
    (hp : ∀ j, j < size.toNat → protAt s.dev.prot (targetAddr s.cfg addr j) = true) (k : Nat) :
    (devPp s.cfg k (maskAddr s.seq.ctx.a) (slice s.host.inp s.seq.ctx.off.toNat s.seq.ctx.n.toNat)
        { s.dev with arm := false, wel := true }).dev = { s.dev with arm := false, wel := Config.freeWel k } := by
  obtain ⟨hn, hrem, hpage⟩ := hc.chunk_bounds rfl
  have htotal := hc.total
  have hlen := hc.slice_length rfl
  have hta : deviceAddr s.cfg (maskAddr s.seq.ctx.a) = targetAddr s.cfg addr s.seq.ctx.off.toNat := by
    rw [hc.addr, targetAddr_word]
  have hhit : rangeProtected s.dev.prot (targetAddr s.cfg addr s.seq.ctx.off.toNat)
      (targetAddr s.cfg addr s.seq.ctx.off.toNat + s.seq.ctx.n.toNat) = true :=
    (rangeProtected_iff ..).mpr ⟨_, Nat.le_refl _, by omega, hp _ (by omega)⟩
  rw [devPp_inPage (paramFacts hv) k s.seq.ctx.a _ _ rfl (by rw [hlen]; exact hpage), hta, hlen]
  exact if_pos hhit

/-- A chunk of a protected range: it is sent and ignored, and the cursor moves on (R200). -/
theorem Reaches.lostChunk (hv : validParams s.cfg = true) (hb : BusOk s) (hl : Listening s.dev)
    (hc : WriteCursor s .enable addr size)
    (hp : ∀ j, j < size.toNat → protAt s.dev.prot (targetAddr s.cfg addr j) = true) (ad : Bool) :
    ∃ t w fs, Reaches { op := .write ad addr size, pt := .enable } s (.goto (chunkPoint t.seq.ctx.rem)) t
        { s.dev with arm := false, wel := w } fs ∧
      WriteCursor t (chunkPoint t.seq.ctx.rem) addr size ∧ t.seq.ctx.rem.toNat < s.seq.ctx.rem.toNat := by
  obtain ⟨h1, hrem, -⟩ := hc.chunk_bounds rfl
  have htotal := hc.total
  have hbuf := hc.buffer
  have hne : s.seq.ctx.rem ≠ 0 := fun h => by rw [h] at hrem; exact absurd (h1.trans hrem) (by decide)
  obtain ⟨t1, b1, k, c1, r1⟩ := chunkStart_listening hv hb hl ad addr size hne (by omega) (hc.chunk rfl).2
  rw [hc.devPp_protected hv hp k] at r1
  set s1 := t1.withTask { op := .write ad addr size, pt := .sample }
  have f1 : s1.cfg = s.cfg := r1.ran.cfg
  have x1 : s1.seq.ctx = { s.seq.ctx with srs := b1 } := c1
  have d1 : s1.dev = { s.dev with arm := false, wel := Config.freeWel k } := r1.ran.dev
  have q1 : devAtFrame s1 = _ := (devAtFrame_of_none (d1 ▸ hl.2.1)).trans d1
  obtain ⟨u, b2, t0, c2, r2⟩ := chunkEnd_ready (t := s1) (f1 ▸ hv) r1.ran.bus (q1 ▸ hl) ad addr size
  rw [q1] at r2
  have hpoll : WriteCursor (s1.withCtx { s1.seq.ctx with t0 := t0 }) .poll addr size :=
    hc.congr (congrArg HostPort.inp r1.ran.host) (b := b1) (t0 := t0) (by rw [State.withCtx_ctx, x1]) rfl
  have hcur := hpoll.advance (c := { s1.seq.ctx with t0 := t0, srs := b2 }) (b := b2) rfl
    (t := u) (congrArg HostPort.inp r2.ran.host) c2
  have hr : u.seq.ctx.rem = s1.seq.ctx.rem - BitVec.ofNat 32 s1.seq.ctx.n.toNat := by rw [c2, chunkHead_rem]
  rw [← hr] at r2
  refine ⟨u, _, _, r1.andThen r2, hr ▸ hcur, ?_⟩
  rw [hr, x1]
  bv_omega

/-- A write whose chunks left are all protected, up to the check of the cleared latch (R200, R292). -/
theorem Reaches.lostChunks (hv : validParams s.cfg = true) (hb : BusOk s) (hl : Listening s.dev)
    (hc : WriteCursor s (chunkPoint s.seq.ctx.rem) addr size)
    (hp : ∀ j, j < size.toNat → protAt s.dev.prot (targetAddr s.cfg addr j) = true) (ad : Bool) :
    ∃ t fs, Reaches { op := .write ad addr size, pt := chunkPoint s.seq.ctx.rem } s
        (afterCleared s.cfg (.write ad addr size)) t { s.dev with arm := false, wel := false } fs ∧ fs ≠ [] := by
  induction hk : s.seq.ctx.rem.toNat using Nat.strong_induction_on generalizing s with
  | _ k ih =>
  by_cases hz : s.seq.ctx.rem = 0
  · obtain ⟨t, r⟩ := Reaches.disabled (op := .write ad addr size) hv hb hl rfl
    rw [show chunkPoint s.seq.ctx.rem = .disable from if_pos hz]
    exact ⟨t, _, r, List.cons_ne_nil _ _⟩
  · rw [show chunkPoint s.seq.ctx.rem = .enable from if_neg hz] at hc ⊢
    obtain ⟨t1, w, fs, r1, hc1, hlt⟩ := Reaches.lostChunk hv hb hl hc hp ad
    set s1 := t1.withTask { op := .write ad addr size, pt := chunkPoint t1.seq.ctx.rem }
    have f1 : s1.cfg = s.cfg := r1.ran.cfg
    have d1 : s1.dev = { s.dev with arm := false, wel := w } := r1.ran.dev
    have hcur1 : WriteCursor s1 (chunkPoint s1.seq.ctx.rem) addr size :=
      ⟨hc1.buffer, hc1.addr, hc1.total, hc1.chunk, hc1.page, hc1.rest⟩
    obtain ⟨t2, gs, r2, hgs⟩ := ih s1.seq.ctx.rem.toNat (hk ▸ hlt) (s := s1) (f1 ▸ hv) r1.ran.bus (d1 ▸ hl) hcur1
      (by rw [d1, f1]; exact hp) rfl
    rw [f1, d1] at r2
    exact ⟨t2, _, r1.andThen r2, List.append_ne_nil_of_right_ne_nil _ hgs⟩

end

/-- A write without read-back whose whole range is protected returns `Ok` all the same (R292). -/
theorem writeOfProtectedRange_gives {s : State} {i : Instr} {ad : Bool} {addr : Word} {n : Nat} {buf : List Byte}
    (hi : writeOperands s.cfg i = some (ad, addr, n, buf)) (hr : Ready s) (hb : BusOk s) (hl : Listening s.dev)
    (hver : s.cfg.verifyAfterWrite = false)
    (hp : ∀ j, j < n → protAt s.dev.prot (targetAddr s.cfg addr j) = true) :
    ∃ frames, RequestGives i s .ok frames [] (codeOf ad .ok) { s.dev with arm := false, wel := false } := by
  obtain ⟨-, size, hop, rfl, hin⟩ := requestOp_of_writeOperands (s := s) hi
  set s0 := accepted i (.write ad addr size) s
  have r0 : s0.seq.ctx.rem = size := chunkHead_rem _
  have hc0 : WriteCursor s0 (chunkPoint s0.seq.ctx.rem) addr size :=
    r0.symm ▸ WriteCursor.opening (s := s0) (c := s.seq.ctx) (requestOp_write_buffer hop) rfl
  obtain ⟨t, fs, r, hfs⟩ := Reaches.lostChunks (s := s0) hr.2.2 hb hl hc0 hp ad
  rw [r0, show afterCleared s0.cfg (.write ad addr size) = .ret .ok from if_neg (hver ▸ Bool.false_ne_true)] at r
  exact ⟨fs, requestGives_of_reaches (op := .write ad addr size) hr hop rfl (.inr hfs) r⟩

/-- Settles O57: the device ignores what is protected, and no step of the operation can tell. -/
theorem protectedTargetIsLostSilently : Obligations.ProtectedTargetIsLostSilently :=
  ⟨fun _ _ _ _ => eraseOfProtectedSector_gives, fun _ _ _ _ _ _ => writeOfProtectedRange_gives⟩

/-! ### The idle machine (R70, R280) -/

/-- Settles O7: the step is one slot of the schedule. -/
theorem idleMachineDoesNothing : Obligations.IdleMachineDoesNothing := fun s ho hi =>
  ⟨s.pass, step_of_idle ho hi, rfl, rfl, rfl, rfl, hi, rfl, pass_dev_eq s⟩

end Sys2Proof.Machine
end
